-- ==== Sys2Proof/Word.lean ====
section
/-! DEFINITION. The word types of the block (00_scope.md section 5, "Widths and types"). -/

namespace Sys2Proof

/-- `u8`: a byte on the wire and in the buffer. -/
abbrev Byte := BitVec 8

/-- `u16`: an unsigned 16-bit value. -/
abbrev U16 := BitVec 16

/-- `s16`: a signed 16-bit value, held as its two's-complement bit pattern; its value is `BitVec.toInt`. -/
abbrev S16 := BitVec 16

end Sys2Proof
end

