-- ==== Sys2Proof/Config.lean ====
section
/-! DEFINITION. What an implementation fixes and the free values (00_scope.md R2). The fixed literals of the wire
format are in Decode.lean and Machine/Operands.lean. -/

namespace Sys2Proof

/-- The reference value of `CAP`, the capacity of the raw buffer (R2). Only `Machine.State.reset` uses it: the capacity
itself is a parameter a claim may vary (R2, decision D25 of the spec) and stands in `Machine.State.cap`. Log 9. -/
def Config.cap : Nat := 80

/-- FREE VALUE: a byte no rule constrains, one per REFRESH (its number) and buffer position
(20_memory.md R33, 93_implementation_defined.md U3, U4). It has no body: nothing can be proved about it. Log 3. -/
opaque Config.freeByte : Nat → Nat → Byte

end Sys2Proof
end

