-- ==== Sys2Proof/Syntax.lean ====
section
/-! DEFINITION. The items the block decodes and executes: one constructor of `Instr` per row of
spec/opcode_table.json (30_encoding.md section 3), the raw forms they are decoded from, and what the
environment may present to the block. -/

namespace Sys2Proof

/-- The four fields of a target slot and of a wire record, in wire order (10_state.md R10, 30_encoding.md R53). -/
inductive Field where
  | x | y | speed | resolution
  deriving DecidableEq, Repr

/-- The four wire formats (30_encoding.md R50). -/
inductive WireFormat where
  | frame30 | rec8 | sm16 | u16
  deriving DecidableEq, Repr

/-- The length of a wire format in bytes; every format has a fixed length (R50, R63). -/
def WireFormat.size : WireFormat → Nat
  | .frame30 => 30
  | .rec8 => 8
  | .sm16 => 2
  | .u16 => 2

/-- The four raw 16-bit values of one target record, as assembled from the wire and not yet decoded
(30_encoding.md R53, 42_field_extract.md R102). -/
structure RawRecord where
  x : U16
  y : U16
  speed : U16
  resolution : U16
  deriving DecidableEq, Repr

/-- The three records of one data-report frame; header and footer are fixed bytes and carry nothing
(30_encoding.md R51). -/
structure Payload where
  rec0 : RawRecord
  rec1 : RawRecord
  rec2 : RawRecord
  deriving DecidableEq, Repr

/-- The six host operations, and no others (30_encoding.md R60, R61; 44_host_operations.md R140).
The operands are any integers (decisions D19 and D22 of the spec). -/
inductive HostOp where
  | begin (bitrate : Int)
  | refresh
  | getX (index : Int)
  | getY (index : Int)
  | getSpeed (index : Int)
  | getRes (index : Int)
  deriving DecidableEq, Repr

/-- The rows of spec/opcode_table.json. The constructor of the row REC is `record`, because Lean itself
names the recursor of this type `Instr.rec`. -/
inductive Instr where
  /-- DATA_REPORT, 40_frame_sync.md R76. -/
  | dataReport (rec0 rec1 rec2 : RawRecord)
  /-- REC, 42_field_extract.md R105. -/
  | record (raw : RawRecord)
  /-- SMFIELD, 42_field_extract.md R103. -/
  | smField (raw : U16)
  /-- UFIELD, 42_field_extract.md R104. -/
  | uField (raw : U16)
  /-- BEGIN, 44_host_operations.md R141. -/
  | begin (bitrate : Int)
  /-- REFRESH, 44_host_operations.md R142. -/
  | refresh
  /-- GET_X, 43_target_regfile.md R122. -/
  | getX (index : Int)
  /-- GET_Y, 43_target_regfile.md R123. -/
  | getY (index : Int)
  /-- GET_SPEED, 43_target_regfile.md R124. -/
  | getSpeed (index : Int)
  /-- GET_RES, 43_target_regfile.md R125. -/
  | getRes (index : Int)
  deriving DecidableEq, Repr

/-- What a decoder is given: a host selector with its integer operand (30_encoding.md R60; REFRESH ignores the
operand), or a wire format with the bytes read, lowest offset first. The format of wire bytes is never read
from the bytes: it is chosen by position (30_encoding.md section 3, "Selected by"). -/
inductive RawItem where
  | host (op : BitVec 3) (arg : Int)
  | wire (fmt : WireFormat) (bytes : List Byte)
  deriving DecidableEq, Repr

/-- What the serial source hands to one REFRESH: the received bytes and, where they are listed, the bytes
read at positions at or beyond LEN (20_memory.md R31, R33; the notation `rx=`, `tail=position:byte` of
30_encoding.md R62, "every position not listed is free"). -/
structure RxInput where
  rx : List Byte
  tail : List (Nat × Byte)
  deriving DecidableEq, Repr

/-- What the environment presents to an idle block, one after the other (44_host_operations.md R140).
`host` and `reset` are the spec's own (R60, 70_reset_and_hazards.md R180). `scan`, `record` and `field`
are the MODEL's own device (DESIGN CHOICE, log 10): they run ONE wire item of the opcode table, read from
the buffer where a REFRESH would read it. -/
inductive Request where
  /-- The host issues an operation: selector and operand. -/
  | host (op : BitVec 3) (arg : Int)
  /-- The reset event. -/
  | reset
  /-- One turn of the scan loop at the present scan index: the 30-byte window there is decoded as FRAME30. -/
  | scan
  /-- The record extractor at record `k` of the present scan index (REC8). -/
  | record (k : Fin 3)
  /-- The field extractor at field `f` of record `k` of the present scan index (SM16 or U16). -/
  | field (k : Fin 3) (f : Field)
  deriving DecidableEq, Repr

end Sys2Proof
end

