-- ==== Sys2Proof/WellFormed.lean ====
section
/-! DEFINITION. Well-formedness of raw items, of the serial source's inputs and of instructions. -/

namespace Sys2Proof

/-- A raw item has the shape its format fixes: a selector that names an operation (30_encoding.md R60: the
values 6 and 7 name none), or exactly as many bytes as the wire format has (R50). -/
def RawItem.wf : RawItem → Bool
  | .host op _ => op.toNat < 6
  | .wire fmt bytes => bytes.length == fmt.size

/-- The serial source's duty towards a block of capacity `cap`: at most `cap` bytes per REFRESH
(20_memory.md R31). -/
def RxInput.wf (cap : Nat) (r : RxInput) : Bool :=
  r.rx.length ≤ cap

/-- Every instruction is well-formed, constructor by constructor: all 65536 values of a field are legal
(30_encoding.md R59), every integer is a legal bitrate and may be presented as an index (decisions D19, D22 of
the spec); the types leave nothing else to check. -/
def Instr.wf : Instr → Bool
  | .dataReport _ _ _ => true
  | .record _ => true
  | .smField _ => true
  | .uField _ => true
  | .begin _ => true
  | .refresh => true
  | .getX _ => true
  | .getY _ => true
  | .getSpeed _ => true
  | .getRes _ => true

end Sys2Proof
end

