-- ==== Sys2Proof/Decode.lean ====
section
/-! DEFINITION. The decoder, total on every raw item and rejecting by name, and after it the encoder
(30_encoding.md, 20_memory.md R35, R39). -/

namespace Sys2Proof

/-- Why a raw item names no instruction. -/
inductive DecodeError where
  /-- Selectors 6 and 7 (30_encoding.md R60). -/
  | noOperation (op : BitVec 3)
  /-- Not as many bytes as the format has (R50). -/
  | badLength (fmt : WireFormat) (length : Nat)
  /-- A 30-byte window without the header or the footer magic (R58). -/
  | notAFrame
  deriving DecidableEq, Repr

/-! ### Literals of the wire format (00_scope.md R2, 30_encoding.md R51, R52) -/

/-- `HDR`: `AA FF 03 00`, frame offsets 0 to 3. -/
def Wire.header : List Byte := [0xAA, 0xFF, 0x03, 0x00]

/-- `FTR`: `55 CC`, frame offsets 28 and 29. -/
def Wire.footer : List Byte := [0x55, 0xCC]

/-- The match of R52, 30 bytes in wire order. -/
def Wire.pattern : List Byte := Wire.header ++ List.replicate 24 0x00 ++ Wire.footer

/-- The mask of R52, 30 bytes in wire order. -/
def Wire.mask : List Byte := List.replicate 4 0xFF ++ List.replicate 24 0x00 ++ List.replicate 2 0xFF

/-- `(w AND mask) = match`, byte by byte (R52). -/
def Wire.masked (w : List Byte) : List Byte := List.zipWith (· &&& ·) w Wire.mask

/-! ### Fields -/

/-- `{hi, lo}` with the low byte first on the wire (20_memory.md R35). -/
def le16 (lo hi : Byte) : U16 := hi ++ lo

/-- The less significant byte, sent first. -/
def lowByte (v : U16) : Byte := v.extractLsb' 0 8

/-- The more significant byte, sent second; its bit 7 is the sign bit `s` (30_encoding.md R54). -/
def highByte (v : U16) : Byte := v.extractLsb' 8 8

/-- The format of a field, by its position in the record (30_encoding.md R53). -/
def Field.format : Field → WireFormat
  | .x | .y | .speed => .sm16
  | .resolution => .u16

/-- The offset `d_f` of a field inside its record (30_encoding.md R56). -/
def Field.offset : Field → Nat
  | .x => 0
  | .y => 2
  | .speed => 4
  | .resolution => 6

/-- `SM16` and `U16`: two bytes, low byte first. -/
def decodeField : List Byte → Option U16
  | [lo, hi] => some (le16 lo hi)
  | _ => none

/-- `REC8`: eight bytes, fields in the order x, y, speed, resolution (30_encoding.md R53). -/
def decodeRecord : List Byte → Option RawRecord
  | [x0, x1, y0, y1, s0, s1, r0, r1] => some ⟨le16 x0 x1, le16 y0 y1, le16 s0 s1, le16 r0 r1⟩
  | _ => none

/-- The three records at frame offsets 4, 12 and 20 (30_encoding.md R51). -/
def decodePayload (bytes : List Byte) : Option Payload :=
  match decodeRecord ((bytes.drop 4).take 8), decodeRecord ((bytes.drop 12).take 8),
      decodeRecord ((bytes.drop 20).take 8) with
  | some r0, some r1, some r2 => some ⟨r0, r1, r2⟩
  | _, _, _ => none

/-! ### The decoder -/

/-- A host operation as an item of the opcode table. -/
def HostOp.toInstr : HostOp → Instr
  | .begin b => .begin b
  | .refresh => .refresh
  | .getX k => .getX k
  | .getY k => .getY k
  | .getSpeed k => .getSpeed k
  | .getRes k => .getRes k

/-- `HOST` (30_encoding.md R60): the selector names the operation; REFRESH takes nothing from the host. -/
def decodeHost (op : BitVec 3) (arg : Int) : Except DecodeError HostOp :=
  match op.toNat with
  | 0 => .ok (.begin arg)
  | 1 => .ok .refresh
  | 2 => .ok (.getX arg)
  | 3 => .ok (.getY arg)
  | 4 => .ok (.getSpeed arg)
  | 5 => .ok (.getRes arg)
  | _ => .error (.noOperation op)

/-- `FRAME30` (30_encoding.md R51, R52, R58): the six magic bytes decide, the payload is taken as it is. -/
def decodeFrame (bytes : List Byte) : Except DecodeError Instr :=
  match decodePayload bytes with
  | some p =>
    if bytes.length = 30 then
      if bytes.take 4 = Wire.header ∧ bytes.drop 28 = Wire.footer then .ok (.dataReport p.rec0 p.rec1 p.rec2)
      else .error .notAFrame
    else .error (.badLength .frame30 bytes.length)
  | none => .error (.badLength .frame30 bytes.length)

/-- The decoder, on any raw item. -/
def decode : RawItem → Except DecodeError Instr
  | .host op arg =>
    match decodeHost op arg with
    | .ok h => .ok h.toInstr
    | .error e => .error e
  | .wire .frame30 bytes => decodeFrame bytes
  | .wire .rec8 bytes =>
    match decodeRecord bytes with
    | some r => .ok (.record r)
    | none => .error (.badLength .rec8 bytes.length)
  | .wire .sm16 bytes =>
    match decodeField bytes with
    | some r => .ok (.smField r)
    | none => .error (.badLength .sm16 bytes.length)
  | .wire .u16 bytes =>
    match decodeField bytes with
    | some r => .ok (.uField r)
    | none => .error (.badLength .u16 bytes.length)

/-! ### The encoder -/

/-- The two bytes of a field, low byte first (20_memory.md R35). -/
def encodeField (v : U16) : List Byte := [lowByte v, highByte v]

/-- The eight bytes of a record (30_encoding.md R53). -/
def encodeRecord (r : RawRecord) : List Byte :=
  encodeField r.x ++ encodeField r.y ++ encodeField r.speed ++ encodeField r.resolution

/-- The thirty bytes of a data-report frame (30_encoding.md R51). -/
def encodeFrame (p : Payload) : List Byte :=
  Wire.header ++ encodeRecord p.rec0 ++ encodeRecord p.rec1 ++ encodeRecord p.rec2 ++ Wire.footer

/-- The encoder. -/
def encode : Instr → RawItem
  | .dataReport r0 r1 r2 => .wire .frame30 (encodeFrame ⟨r0, r1, r2⟩)
  | .record r => .wire .rec8 (encodeRecord r)
  | .smField r => .wire .sm16 (encodeField r)
  | .uField r => .wire .u16 (encodeField r)
  | .begin b => .host 0 b
  | .refresh => .host 1 0
  | .getX k => .host 2 k
  | .getY k => .host 3 k
  | .getSpeed k => .host 4 k
  | .getRes k => .host 5 k

/-! ### Words of the opcode table -/

/-- The lowest `n` bytes of `w`, least significant byte first: the byte at offset 0 is bits 7:0, the byte at offset 1 bits
15:8. DESIGN CHOICE (log 22): the spec numbers the bits of a 16-bit value only (R54, R55); the magics are byte sequences
without a byte order as numbers (20_memory.md, after R35), and R52 writes its hex strings offset 0 leftmost. -/
def bytesOfNat : Nat → Nat → List Byte
  | 0, _ => []
  | n + 1, w => BitVec.ofNat 8 w :: bytesOfNat n (w / 256)

/-- The raw item that a word of the opcode table stands for, by the size of its row; the word's bytes are laid out by
`bytesOfNat` (log 22). A host row has a 3-bit
selector, in one byte, and an operand to which the table gives no bits: it is 0. SMFIELD and UFIELD have the same
16 bits and differ only by position in a record; a bare 16-bit word is read at position `x`, so as SMFIELD
(DESIGN CHOICE, log 11). -/
def rawOfTableWord (nbits w : Nat) : Option RawItem :=
  if nbits ≤ 8 then
    if w < 8 then some (.host (BitVec.ofNat 3 w) 0) else none
  else if nbits = 16 then some (.wire .sm16 (bytesOfNat 2 w))
  else if nbits = 64 then some (.wire .rec8 (bytesOfNat 8 w))
  else if nbits = 240 then some (.wire .frame30 (bytesOfNat 30 w))
  else none

/-- The instruction the decoder reads from a word of the opcode table; none where it refuses. -/
def decodeTableWord (nbits w : Nat) : Option Instr :=
  match rawOfTableWord nbits w with
  | some raw =>
    match decode raw with
    | .ok i => some i
    | .error _ => none
  | none => none

end Sys2Proof
end

