-- ==== Sys2Proof/Machine/State.lean ====
section
/-! DEFINITION. The state of the block as plain data (10_state.md), the reasons a step reports, and reset. -/

namespace Sys2Proof.Machine

/-- A target slot: four 16-bit fields, the signed ones decoded and in two's complement
(10_state.md R10, R11). -/
structure Target where
  x : S16
  y : S16
  speed : S16
  resolution : U16
  deriving DecidableEq, Repr

/-- The register file `TGT`: exactly three slots (R10). -/
structure RegFile where
  slot0 : Target
  slot1 : Target
  slot2 : Target
  deriving DecidableEq, Repr

/-- The sequencer state `SEQ` (10_state.md R19). -/
inductive Seq where
  | idle | fill | test | rec0 | rec1 | rec2 | adv | done
  deriving DecidableEq, Repr

/-- The raw buffer `BUF`: the bytes that fills have written, as (position, byte) pairs with strictly rising
positions. A position not listed holds no value (`Memory.read` in Ops.lean); what reading it yields is
a free value (R15, R24; log 8). -/
abbrev Memory := List Host.Cell

/-- Faults, in the sense 93_implementation_defined.md gives the word: the step produces an error and no value. -/
inductive Fault where
  /-- `RangeError(index)`, error code 1: handed to the host by GET_X, GET_Y, GET_SPEED and GET_RES when their
  index is not 0, 1 or 2, and by nothing else (60_exceptions.md R161). It is the RESULT of a step that
  goes on to a next state, since the block does not stop (R168, R169; log 1). Safe: no value is returned
  and no state changes. No step of this machine answers `Outcome.fault`. -/
  | rangeError (index : Int)
  deriving DecidableEq, Repr

/-- Refusals: steps to which the model gives no behaviour. -/
inductive Refusal where
  /-- An arm of `exec` without a meaning. No arm answers it. Safe. -/
  | notModelled (mnemonic : String)
  /-- REFRESH while STARTED = 0, raised by REFRESH (44_host_operations.md R145: "a model must refuse it"; log 2). Safe:
  nothing can be proved about such a step. -/
  | refreshBeforeBegin
  /-- A request the decoder rejects, raised by the step: selectors 6 and 7, which name no operation
  (30_encoding.md R60; log 13). Safe. -/
  | undecodable (why : DecodeError)
  deriving DecidableEq, Repr

/-- What an operation hands back (10_state.md R21, 43_target_regfile.md, 44_host_operations.md R143,
60_exceptions.md R161), or a decode unit yields (42_field_extract.md). -/
inductive Result where
  /-- Nothing (BEGIN, DATA_REPORT, reset). -/
  | nothing
  /-- The boolean of REFRESH. -/
  | bool (value : Bool)
  /-- A signed 16-bit value. -/
  | signed (value : S16)
  /-- An unsigned 16-bit value; it must stay unsigned (R125). -/
  | unsigned (value : U16)
  /-- The four-field value of RECDEC. -/
  | target (value : Target)
  /-- An error and no value. -/
  | error (fault : Fault)
  deriving DecidableEq, Repr

/-- The state. `tgt`, `started`, `bitrate` are the persistent state, `buf`, `len`, `i`, `seq`, with the inputs `rx`
and `tail` of a REFRESH in progress, the transient state of 10_state.md; `cap` is the parameter of 00_scope.md R2. `result`, `pending`, `serial` and
`draws` are the MODEL's own (logs 3, 4, 5). -/
structure State where
  /-- `CAP`, the capacity of the block (00_scope.md R2): a parameter, not a register. No step writes it; a statement about
  every state is a statement about every capacity (log 9). -/
  cap : Nat
  /-- `TGT` (R10). -/
  tgt : RegFile
  /-- `STARTED` (R20). -/
  started : Bool
  /-- `BITRATE` (R22); no operation reads it. -/
  bitrate : Int
  /-- `BUF` (R15). -/
  buf : Memory
  /-- `LEN` (R18). -/
  len : Nat
  /-- `I` (R16). -/
  i : Nat
  /-- `SEQ` (R19). -/
  seq : Seq
  /-- `rx` of the REFRESH in progress (R23, 40_frame_sync.md R70 row IDLE). -/
  rx : List Byte
  /-- The listed bytes of `tail` of the REFRESH in progress (20_memory.md R33). -/
  tail : List (Nat × Byte)
  /-- What the last operation handed back; no operation reads it. -/
  result : Result
  /-- What the environment presents next, in order. -/
  pending : List Request
  /-- What the serial source hands to the coming REFRESHes, in order. -/
  serial : List RxInput
  /-- The number of REFRESHes accepted: it selects the free bytes of the present one. -/
  draws : Nat
  deriving DecidableEq, Repr

/-- A slot of zeros. -/
def Target.zero : Target := ⟨0, 0, 0, 0⟩

/-- The register file after reset: all 192 bits 0 (10_state.md R24). -/
def RegFile.zero : RegFile := ⟨.zero, .zero, .zero⟩

/-- The state right after reset (10_state.md R24, 70_reset_and_hazards.md R180). `TGT`, `STARTED` and `SEQ` are the
spec's, `CAP` is at its reference value (R2, log 9); `BITRATE`, `LEN` and `I`, for which the spec gives no value, are 0 by DESIGN CHOICE (logs 6, 7);
`BUF` lists nothing (log 8); the model's own fields are empty (logs 3, 4, 5). -/
def State.reset : State where
  cap := Config.cap
  tgt := .zero
  started := false
  bitrate := 0
  buf := []
  len := 0
  i := 0
  seq := .idle
  rx := []
  tail := []
  result := .nothing
  pending := []
  serial := []
  draws := 0

end Sys2Proof.Machine
end

