-- ==== Sys2Proof/Machine/Ops.lean ====
section
/-! DEFINITION. Named operations over the state: one update per field, the raw buffer, the register file, the
serial source, the reset event and the one error. -/

namespace Sys2Proof.Machine

/-! ### Updates of one field -/

def State.setTgt (v : RegFile) (s : State) : State := { s with tgt := v }
def State.setStarted (v : Bool) (s : State) : State := { s with started := v }
def State.setBitrate (v : Int) (s : State) : State := { s with bitrate := v }
def State.setBuf (v : Memory) (s : State) : State := { s with buf := v }
def State.setLen (v : Nat) (s : State) : State := { s with len := v }
def State.setI (v : Nat) (s : State) : State := { s with i := v }
def State.setSeq (v : Seq) (s : State) : State := { s with seq := v }
def State.setResult (v : Result) (s : State) : State := { s with result := v }
def State.setPending (v : List Request) (s : State) : State := { s with pending := v }

/-- The inputs of the REFRESH in progress. -/
def State.setInput (rx : List Byte) (tail : List (Nat × Byte)) (s : State) : State :=
  { s with rx := rx, tail := tail }

/-! ### The raw buffer -/

/-- The byte a fill has put at position `a`, if any. -/
def Memory.read : Memory → Nat → Option Byte
  | [], _ => none
  | (p, b) :: m, a => if p = a then some b else Memory.read m a

/-- `BUF[a] <- v`, keeping the positions strictly rising. -/
def Memory.write : Memory → Nat → Byte → Memory
  | [], a, v => [(a, v)]
  | (p, b) :: m, a, v =>
    if a < p then (a, v) :: (p, b) :: m
    else if a = p then (a, v) :: m
    else (p, b) :: Memory.write m a v

/-- The canonical form: strictly rising positions. No position reads as a listed byte unless it is listed, so no
entry is superfluous. -/
def Memory.wf : Memory → Bool
  | [] => true
  | [_] => true
  | (p, _) :: (q, c) :: m => p < q && Memory.wf ((q, c) :: m)

/-- Every position of the buffer in use lies below `cap` (10_state.md R15). -/
def Memory.below (cap : Nat) (m : Memory) : Bool := m.all (fun c => c.1 < cap)

/-- `BUF[base + j] <- bytes[j]` for all `j` (40_frame_sync.md R71). -/
def Memory.writeAll : Memory → Nat → List Byte → Memory
  | m, _, [] => m
  | m, base, b :: bs => Memory.writeAll (Memory.write m base b) (base + 1) bs

/-! ### The register file -/

/-- `TGT[k]`. -/
def RegFile.get (r : RegFile) (k : Fin 3) : Target :=
  match k with
  | 0 => r.slot0
  | 1 => r.slot1
  | 2 => r.slot2

/-- All four fields of one slot replaced at once, the other slots kept. -/
def RegFile.set (r : RegFile) (k : Fin 3) (v : Target) : RegFile :=
  match k with
  | 0 => { r with slot0 := v }
  | 1 => { r with slot1 := v }
  | 2 => { r with slot2 := v }

/-- RECWR: `TGT[k] <- v` (43_target_regfile.md R120). -/
def recWr (k : Fin 3) (v : Target) (s : State) : State := s.setTgt (s.tgt.set k v)

/-- The packed view of a slot, `TGTW[k]`: x in bits 15:0, y in 31:16, speed in 47:32, resolution in 63:48
(10_state.md R12). No other rule depends on it. -/
def Target.packed (t : Target) : BitVec 64 := t.resolution ++ t.speed ++ t.y ++ t.x

/-! ### The serial source -/

/-- What the serial source hands to the next REFRESH; where the environment has listed no further input there are
no bytes available (log 21). -/
def nextInput (s : State) : RxInput :=
  match s.serial with
  | [] => ⟨[], []⟩
  | r :: _ => r

/-- The `rx` of the next REFRESH: the available bytes, at most CAP of them (20_memory.md R31). -/
def nextRx (s : State) : List Byte := (nextInput s).rx.take s.cap

/-- Accept `rx` and `tail` (40_frame_sync.md R70, row IDLE). The input is consumed (R38), and the unlisted bytes of
`tail` are drawn anew (R33). -/
def accept (s : State) : State :=
  { s with
    seq := .fill
    rx := nextRx s
    tail := (nextInput s).tail
    serial := s.serial.tail
    draws := s.draws + 1 }

/-! ### Reset -/

/-- The reset event between two operations (70_reset_and_hazards.md R180): the block takes the values of R24, at every
reset the same. The block's parameter CAP is no register and stays (log 9), and what lies outside the block (the environment's
further requests and inputs, the numbering of the draws) is not reset (log 15). -/
def State.applyReset (s : State) : State :=
  { State.reset with cap := s.cap, pending := s.pending, serial := s.serial, draws := s.draws }

/-! ### The one error -/

/-- `raise RangeError(index)` (60_exceptions.md R161, R168): the operation's result is the error and the offending
index. Nothing is saved, nothing else is changed, and control returns to the host. There is no return operation to
model beside it (R169): the block is idle and accepts the next operation. -/
def raiseRangeError (index : Int) (s : State) : Host.Outcome State Fault Refusal :=
  .next (s.setResult (.error (.rangeError index)))

end Sys2Proof.Machine
end

