-- ==== Sys2Proof/Machine/Operands.lean ====
section
/-! DEFINITION. Every operand form of the spec: the buffer read primitives, the record positions, the field decodes and
the accessor index. -/

namespace Sys2Proof.Machine

/-! ### Buffer reads (20_memory.md R33, R35) -/

/-- `tail(j)`: the listed byte if the input lists the position, else a free value, the same one throughout the
REFRESH (R33; log 3). -/
def tailByte (s : State) (j : Nat) : Byte :=
  match s.tail.lookup j with
  | some b => b
  | none => Config.freeByte s.draws j

/-- `B(j)`: the byte the fill put there for `j < LEN`, `tail(j)` from `LEN` on, also at and beyond `CAP` (R33). In a
state where `LEN` covers a position no fill has written, the byte is a free value too (R15; log 8). -/
def bufByte (s : State) (j : Nat) : Byte :=
  if j < s.len then
    match s.buf.read j with
    | some b => b
    | none => Config.freeByte s.draws j
  else tailByte s j

/-- `B2(j)`, little-endian (R35). -/
def bufHalf (s : State) (j : Nat) : U16 := le16 (bufByte s j) (bufByte s (j + 1))

/-- The bytes `B(j) .. B(j+n-1)`. -/
def window (s : State) : Nat → Nat → List Byte
  | _, 0 => []
  | j, n + 1 => bufByte s j :: window s (j + 1) n

/-! ### Record positions (42_field_extract.md R100, R101) -/

/-- RECOFF: `i + 4 + 8k`. -/
def recOff (i : Nat) (k : Fin 3) : Nat := i + 4 + 8 * k.val

/-- RECFIT: the whole record lies within the filled length. -/
def recFit (i : Nat) (k : Fin 3) (len : Nat) : Bool := decide (recOff i k + 8 ≤ len)

/-- LE16: the four raw values of the record at offset `o` (R102). -/
def recordAt (s : State) (o : Nat) : RawRecord :=
  ⟨bufHalf s o, bufHalf s (o + 2), bufHalf s (o + 4), bufHalf s (o + 6)⟩

/-- The three records behind the header at offset `i`. The records that do not fit are not used by any rule (R107). -/
def payloadAt (s : State) (i : Nat) : Payload :=
  ⟨recordAt s (recOff i 0), recordAt s (recOff i 1), recordAt s (recOff i 2)⟩

/-- Record `k` of a payload. -/
def recordOf (p : Payload) (k : Fin 3) : RawRecord :=
  match k with
  | 0 => p.rec0
  | 1 => p.rec1
  | 2 => p.rec2

/-! ### Field decodes (R103, R104, R105) -/

/-- `toS16(n)` (00_scope.md section 5). -/
def toS16 (n : Int) : S16 := BitVec.ofInt 16 n

/-- SMDEC: bit 15 set means non-negative, and the value is `r - 0x8000`; clear, it is `-r` (R103). -/
def smdec (r : U16) : S16 :=
  if r.msb then toS16 ((r.toNat : Int) - 0x8000) else toS16 (-(r.toNat : Int))

/-- UDEC: the identity (R104). -/
def udec (r : U16) : U16 := r

/-- RECDEC: the four fields, each on its own (R105). -/
def recDec (r : RawRecord) : Target := ⟨smdec r.x, smdec r.y, smdec r.speed, udec r.resolution⟩

/-! ### The accessor index (43_target_regfile.md R126) -/

/-- The slot an index names; none for every integer other than 0, 1 and 2. -/
def slotOf (index : Int) : Option (Fin 3) :=
  if index = 0 then some 0
  else if index = 1 then some 1
  else if index = 2 then some 2
  else none

/-- What the four accessors share: the index check comes first and, where it fails, nothing is read. -/
def readSlot (index : Int) (value : Target → Result) (s : State) : Host.Outcome State Fault Refusal :=
  match slotOf index with
  | some k => .next (s.setResult (value (s.tgt.get k)))
  | none => raiseRangeError index s

end Sys2Proof.Machine
end

