-- ==== Sys2Proof/Machine/Flags.lean ====
section
/-! DEFINITION. The block has no flags and no condition codes (10_state.md R21). What it has are the boolean result of
REFRESH and the error code that accompanies an operation. -/

namespace Sys2Proof.Machine

/-- `RESULT = (LEN >= 1)` (44_host_operations.md R143). -/
def refreshResult (len : Nat) : Bool := decide (1 ≤ len)

/-- The error code of an operation: 1 for RangeError, 0 for everything that completes normally (60_exceptions.md R160). -/
def Result.errorCode : Result → Nat
  | .error (.rangeError _) => 1
  | _ => 0

/-- The number a result carries: a signed field as a number from -32768 to 32767, an unsigned one from 0 to 65535. -/
def Result.number : Result → Option Int
  | .signed v => some v.toInt
  | .unsigned v => some (v.toNat : Int)
  | _ => none

end Sys2Proof.Machine
end

