-- ==== Sys2Proof/Machine/Accessors.lean ====
section
/-! DEFINITION. The four accessors of the target register file (43_target_regfile.md R122 to R127). -/

namespace Sys2Proof.Machine

/-- GET_X (R122). -/
def execGetX (index : Int) (s : State) : Host.Outcome State Fault Refusal :=
  readSlot index (fun t => .signed t.x) s

/-- GET_Y (R123). -/
def execGetY (index : Int) (s : State) : Host.Outcome State Fault Refusal :=
  readSlot index (fun t => .signed t.y) s

/-- GET_SPEED (R124). -/
def execGetSpeed (index : Int) (s : State) : Host.Outcome State Fault Refusal :=
  readSlot index (fun t => .signed t.speed) s

/-- GET_RES (R125): unsigned, and handed over as such. -/
def execGetRes (index : Int) (s : State) : Host.Outcome State Fault Refusal :=
  readSlot index (fun t => .unsigned t.resolution) s

end Sys2Proof.Machine
end

