-- ==== Sys2Proof/Machine/FieldExtract.lean ====
section
/-! DEFINITION. The record and field extractor (42_field_extract.md): the instructions REC, SMFIELD and UFIELD. They
write no state of the block; each hands back the value it decodes. -/

namespace Sys2Proof.Machine

/-- REC: RECDEC of the raw record (R105). -/
def execRecord (raw : RawRecord) (s : State) : Host.Outcome State Fault Refusal :=
  .next (s.setResult (.target (recDec raw)))

/-- SMFIELD: SMDEC of the raw value (R103). -/
def execSmField (raw : U16) (s : State) : Host.Outcome State Fault Refusal :=
  .next (s.setResult (.signed (smdec raw)))

/-- UFIELD: UDEC of the raw value (R104). -/
def execUField (raw : U16) (s : State) : Host.Outcome State Fault Refusal :=
  .next (s.setResult (.unsigned (udec raw)))

end Sys2Proof.Machine
end

