-- ==== Sys2Proof/Machine/FrameSync.lean ====
section
/-! DEFINITION. Frame synchronisation (40_frame_sync.md, 41_footer_validator.md): the fill, the signature test, the processing
of a match (the instruction DATA_REPORT), the scan, and the sequencer of R70. -/

namespace Sys2Proof.Machine

/-- FILL: `BUF[j] <- rx[j]` for all `j < |rx|`, `LEN <- |rx|` (R71). -/
def fillBuf (s : State) : State := (s.setBuf (s.buf.writeAll 0 s.rx)).setLen s.rx.length

/-- HDRCMP (R74). -/
def hdrCmp (s : State) (i : Nat) : Bool :=
  bufByte s i == 0xAA && bufByte s (i + 1) == 0xFF && bufByte s (i + 2) == 0x03 && bufByte s (i + 3) == 0x00

/-- FTRCMP (41_footer_validator.md R90). -/
def ftrCmp (s : State) (i : Nat) : Bool :=
  bufByte s (i + 28) == 0x55 && bufByte s (i + 29) == 0xCC

/-- SIG: header and footer, and no comparison with LEN (R75). -/
def sig (s : State) (i : Nat) : Bool := hdrCmp s i && ftrCmp s i

/-- ADV1, after a mismatch (R77). -/
def advance1 (s : State) : State := s.setI (s.i + 1)

/-- ADV, after a match (R78). -/
def advanceMatch (s : State) : State := s.setI (s.i + 30)

/-- One record step of a match at the scan index: written if it fits, else the slot is left as it is
(R76, 42_field_extract.md R101, R107). -/
def writeRecord (p : Payload) (k : Fin 3) (s : State) : State :=
  if recFit s.i k s.len then recWr k (recDec (recordOf p k)) s else s

/-- The processing of a match at the scan index: records 0, 1, 2 in this order, then the advance (R76). -/
def processMatch (p : Payload) (s : State) : State :=
  advanceMatch (writeRecord p 2 (writeRecord p 1 (writeRecord p 0 s)))

/-- DATA_REPORT (R76): the frame at the present scan index. It hands nothing back and leaves SEQ to the sequencer
(log 18). -/
def execDataReport (rec0 rec1 rec2 : RawRecord) (s : State) : Host.Outcome State Fault Refusal :=
  .next ((processMatch ⟨rec0, rec1, rec2⟩ s).setResult .nothing)

/-- One turn of the scan loop at a candidate (R82). -/
def scanTurn (s : State) : State :=
  if sig s s.i then processMatch (payloadAt s s.i) s else advance1 s

/-- The scan from the present scan index, for at most `fuel` candidates; LEN of them always suffice, because the scan
index grows at every turn (R73, R82). -/
def scanLoop : Nat → State → State
  | 0, s => s
  | fuel + 1, s => if s.i < s.len then scanLoop fuel (scanTurn s) else s

/-- DONE: the result is handed to the host, the block is idle, and no copy of the inputs is kept
(R70, 20_memory.md R38). -/
def finish (s : State) : State :=
  ((s.setResult (.bool (refreshResult s.len))).setSeq .idle).setInput [] []

/-- One micro-step of a REFRESH in progress: the rows of the table of R70, by SEQ. The row IDLE (accepting `rx` and
`tail`) is `accept`; an idle block has no micro-step. -/
def seqStep (s : State) : State :=
  match s.seq with
  | .idle => s
  | .fill =>
    if s.rx.length = 0 then (s.setLen 0).setSeq .done
    else ((fillBuf s).setI 0).setSeq .test
  | .test =>
    if s.i < s.len then
      if sig s s.i then s.setSeq .rec0 else advance1 s
    else s.setSeq .done
  | .rec0 => (writeRecord (payloadAt s s.i) 0 s).setSeq .rec1
  | .rec1 => (writeRecord (payloadAt s s.i) 1 s).setSeq .rec2
  | .rec2 => (writeRecord (payloadAt s s.i) 2 s).setSeq .adv
  | .adv => (advanceMatch s).setSeq .test
  | .done => finish s

/-- `n` micro-steps. -/
def seqRun : Nat → State → State
  | 0, s => s
  | n + 1, s => seqRun n (seqStep s)

end Sys2Proof.Machine
end

