-- ==== Sys2Proof/Machine/HostOps.lean ====
section
/-! DEFINITION. The host operations BEGIN and REFRESH (44_host_operations.md). -/

namespace Sys2Proof.Machine

/-- BEGIN (R141): BITRATE and STARTED are written, TGT is left alone; the transport it configures lies outside the
block (R171). -/
def execBegin (bitrate : Int) (s : State) : Host.Outcome State Fault Refusal :=
  .next (((s.setBitrate bitrate).setStarted true).setResult .nothing)

/-- A whole REFRESH, whatever the capacity (R142, 40_frame_sync.md R82): accept the input; with no bytes there is
no scan (R144); otherwise one fill, then one scan from offset 0 (20_memory.md R43). -/
def runRefresh (s : State) : State :=
  let a := accept s
  if a.rx.length = 0 then finish (a.setLen 0)
  else finish (scanLoop a.rx.length ((fillBuf a).setI 0))

/-- REFRESH (R142 to R145): refused while STARTED = 0, else the whole refresh. -/
def execRefresh (s : State) : Host.Outcome State Fault Refusal :=
  if s.started then .next (runRefresh s) else .refused .refreshBeforeBegin

end Sys2Proof.Machine
end

