-- ==== Sys2Proof/Machine/Dispatch.lean ====
section
/-! DEFINITION. One arm per constructor of Instr. -/

namespace Sys2Proof.Machine

def exec (i : Instr) (s : State) : Host.Outcome State Fault Refusal :=
  match i with
  | .dataReport rec0 rec1 rec2 => Sys2Proof.Machine.execDataReport rec0 rec1 rec2 s
  | .record raw => Sys2Proof.Machine.execRecord raw s
  | .smField raw => Sys2Proof.Machine.execSmField raw s
  | .uField raw => Sys2Proof.Machine.execUField raw s
  | .begin bitrate => Sys2Proof.Machine.execBegin bitrate s
  | .refresh => Sys2Proof.Machine.execRefresh s
  | .getX index => Sys2Proof.Machine.execGetX index s
  | .getY index => Sys2Proof.Machine.execGetY index s
  | .getSpeed index => Sys2Proof.Machine.execGetSpeed index s
  | .getRes index => Sys2Proof.Machine.execGetRes index s

end Sys2Proof.Machine
end

