-- ==== Sys2Proof/Machine/Fetch.lean ====
section
/-! DEFINITION. How the step comes to an item to decode: from the host's request, or from the buffer where a REFRESH
would read it; and what happens where there is nothing to decode. -/

namespace Sys2Proof.Machine

/-- The raw item a request yields. The wire items are read from the buffer, at the positions of 20_memory.md R39
relative to the present scan index: a window only while the scan has a candidate (R73), a record or a field only
if its record fits (R101, R107). -/
def fetch (s : State) : Request → Option RawItem
  | .host op arg => some (.host op arg)
  | .reset => none
  | .scan => if s.i < s.len then some (.wire .frame30 (window s s.i 30)) else none
  | .record k => if recFit s.i k s.len then some (.wire .rec8 (window s (recOff s.i k) 8)) else none
  | .field k f =>
    if recFit s.i k s.len then some (.wire f.format (window s (recOff s.i k + f.offset) 2)) else none

/-- A request that yields no item: the reset event, the end of the scan (nothing more is read or written, R73), a
record that does not fit (skipped, R107). -/
def noItem (s : State) : Request → State
  | .reset => s.applyReset
  | .host _ _ => s.setResult .nothing
  | .scan => s.setResult .nothing
  | .record _ => s.setResult .nothing
  | .field _ _ => s.setResult .nothing

/-- An item the decoder rejects: a window that is no frame is passed over by one byte (40_frame_sync.md R77, R80), a selector
that names no operation is refused (30_encoding.md R60). -/
def rejected (e : DecodeError) (s : State) : Host.Outcome State Fault Refusal :=
  match e with
  | .notAFrame => .next ((advance1 s).setResult .nothing)
  | .noOperation op => .refused (.undecodable (.noOperation op))
  | .badLength fmt n => .refused (.undecodable (.badLength fmt n))

/-- Where the bytes of a wire word lie, relative to the scan index, and the request that reads them there: a frame at
offset 0, a record as record 0, a 16-bit value as field `x` of record 0 (or its `resolution`). -/
def placeOf : WireFormat → Nat × Nat × Request
  | .frame30 => (0, 30, .scan)
  | .rec8 => (4, 12, .record 0)
  | .sm16 => (4, 12, .field 0 .x)
  | .u16 => (10, 12, .field 0 .resolution)

/-- `s` with a raw item where the next step fetches it. A host operation becomes the first pending request. The bytes of a
wire item are put into the buffer at scan index 0 and its request becomes the first pending one. -/
def placeItem (s : State) : RawItem → State
  | .host op arg => { s with seq := .idle, pending := .host op arg :: s.pending }
  | .wire fmt bytes =>
    let (at0, filled, request) := placeOf fmt
    { s with
      seq := .idle
      buf := s.buf.writeAll at0 bytes
      len := filled
      i := 0
      pending := request :: s.pending }

/-- `s` with a word of the opcode table where the next step fetches it; a word the table has no row for is not placed. -/
def placeTableWord (s : State) (nbits w : Nat) : State :=
  match rawOfTableWord nbits w with
  | some raw => placeItem s raw
  | none => s

end Sys2Proof.Machine
end

