-- ==== Sys2Proof/Machine/Step.lean ====
section
/-! DEFINITION. One step of the block. -/

namespace Sys2Proof.Machine

/-- The idle block takes one request, decodes the item it yields and executes it. -/
def runRequest (r : Request) (s : State) : Host.Outcome State Fault Refusal :=
  match fetch s r with
  | none => .next (noItem s r)
  | some raw =>
    match decode raw with
    | .ok i => exec i s
    | .error e => rejected e s

/-- One step. An idle block takes the next request, and without one nothing changes (44_host_operations.md R148). A block with
a REFRESH in progress carries out one row of the table of 40_frame_sync.md R70. -/
def step (s : State) : Host.Outcome State Fault Refusal :=
  match s.seq with
  | .idle =>
    match s.pending with
    | [] => .next s
    | r :: rest => runRequest r (s.setPending rest)
  | _ => .next (seqStep s)

/-- `s` with the instruction of the word `w` where the next step fetches it (log 14). -/
def State.withFetchWord (s : State) (nbits w : Nat) : State := placeTableWord s nbits w

end Sys2Proof.Machine
end

