-- ==== Sys2Proof/Machine/ScanFunction.lean ====
section
/-! DEFINITION. The scan as a pure function of the register file, the received bytes and `tail` (40_frame_sync.md R82), and the
list of the offsets it matches. REFRESH is defined on the whole state (FrameSync.lean, HostOps.lean); the statements
say that it computes this function. -/

namespace Sys2Proof.Machine

/-- `B(j)` of a REFRESH with these inputs (20_memory.md R33). -/
def inputByte (rx : List Byte) (tail : Nat → Byte) (j : Nat) : Byte :=
  match rx[j]? with
  | some b => b
  | none => tail j

/-- `SIG(i)` of a REFRESH with these inputs (R74, R75, R90). -/
def inputSig (rx : List Byte) (tail : Nat → Byte) (i : Nat) : Bool :=
  inputByte rx tail i == 0xAA && inputByte rx tail (i + 1) == 0xFF && inputByte rx tail (i + 2) == 0x03 &&
    inputByte rx tail (i + 3) == 0x00 && inputByte rx tail (i + 28) == 0x55 && inputByte rx tail (i + 29) == 0xCC

/-- `B2(j)` of a REFRESH with these inputs (20_memory.md R35). -/
def inputHalf (rx : List Byte) (tail : Nat → Byte) (j : Nat) : U16 :=
  le16 (inputByte rx tail j) (inputByte rx tail (j + 1))

/-- `RECDEC(o)` of a REFRESH with these inputs (42_field_extract.md R105). -/
def inputTarget (rx : List Byte) (tail : Nat → Byte) (o : Nat) : Target :=
  ⟨smdec (inputHalf rx tail o), smdec (inputHalf rx tail (o + 2)), smdec (inputHalf rx tail (o + 4)),
    inputHalf rx tail (o + 6)⟩

/-- `if i + 4 + 8k + 8 <= LEN: TGT[k] <- RECDEC(i + 4 + 8k)` (R82). -/
def storeRecord (rx : List Byte) (tail : Nat → Byte) (i : Nat) (k : Fin 3) (r : RegFile) : RegFile :=
  if i + 4 + 8 * k.val + 8 ≤ rx.length then r.set k (inputTarget rx tail (i + 4 + 8 * k.val)) else r

/-- The loop of R82 from offset `i`, for at most `fuel` turns. -/
def scanFrom (rx : List Byte) (tail : Nat → Byte) : Nat → Nat → RegFile → RegFile
  | 0, _, r => r
  | fuel + 1, i, r =>
    if i < rx.length then
      if inputSig rx tail i then
        scanFrom rx tail fuel (i + 30)
          (storeRecord rx tail i 2 (storeRecord rx tail i 1 (storeRecord rx tail i 0 r)))
      else scanFrom rx tail fuel (i + 1) r
    else r

/-- `scan(TGT, rx, tail)` (R82): at most LEN turns. -/
def scan (r : RegFile) (rx : List Byte) (tail : Nat → Byte) : RegFile := scanFrom rx tail rx.length 0 r

/-- The offsets at which the loop of R82 finds the signature, from offset `i` and for at most `fuel` turns, in the order of
the scan. -/
def matchesFrom (rx : List Byte) (tail : Nat → Byte) : Nat → Nat → List Nat
  | 0, _ => []
  | fuel + 1, i =>
    if i < rx.length then
      if inputSig rx tail i then i :: matchesFrom rx tail fuel (i + 30)
      else matchesFrom rx tail fuel (i + 1)
    else []

/-- The offsets a REFRESH with these inputs matches (R79). -/
def scanMatches (rx : List Byte) (tail : Nat → Byte) : List Nat := matchesFrom rx tail rx.length 0

/-- The `tail` of the next REFRESH, as a function of the position (20_memory.md R33). -/
def nextTail (s : State) (j : Nat) : Byte :=
  match (nextInput s).tail.lookup j with
  | some b => b
  | none => Config.freeByte (s.draws + 1) j

end Sys2Proof.Machine
end

