-- ==== Sys2Proof/Safety.lean ====
section
/-! DEFINITION. What counts as a safe run: the abnormal conditions (60_exceptions.md), when a step has gone wrong, and the
host's side of the contract (70_reset_and_hazards.md section 3). -/

namespace Sys2Proof.Safety

open Sys2Proof.Machine

/-- The four abnormal conditions EV0 to EV3 (60_exceptions.md R160). -/
inductive Condition where
  /-- EV0: no data available. -/
  | noData
  /-- EV1: malformed or unsynchronised bytes. -/
  | unsynchronized
  /-- EV2: truncated frame at the buffer boundary. -/
  | truncated
  /-- EV3: out-of-range target index. -/
  | outOfRange
  deriving DecidableEq, Repr

/-- Only EV3 is surfaced as an error; EV0 to EV2 are errors of no operation (R160, R162). -/
def Condition.errorCode : Condition → Nat
  | .noData => 0
  | .unsynchronized => 0
  | .truncated => 0
  | .outOfRange => 1

/-- EV0 holds at a REFRESH in this state. -/
def noDataAt (s : State) : Bool := (nextRx s).length == 0

/-- EV1 holds at the candidate `i` of a scan. -/
def unsynchronizedAt (s : State) (i : Nat) : Bool := decide (i < s.len) && !sig s i

/-- EV2 holds for record `k` of a match at `i`. -/
def truncatedAt (s : State) (i : Nat) (k : Fin 3) : Bool := sig s i && !recFit i k s.len

/-- EV3 holds for an accessor index. -/
def outOfRangeIndex (index : Int) : Bool := (slotOf index).isNone

/-- A step has gone well: a next state, and the operation handed back no error. A RangeError is a fault of its step, and a
host program that reaches it has gone wrong (R161); a refused step has no behaviour (44_host_operations.md R145). -/
def stepOk : Host.Outcome State Fault Refusal → Bool
  | .next t => t.result.errorCode == 0
  | .fault _ => false
  | .refused _ => false

/-- The host's duties over what it presents from now on, given STARTED: a BEGIN since reset before every REFRESH (R181), an
index in 0..2 for every accessor (R189), and selectors that name an operation (30_encoding.md R60). -/
def hostOk (started : Bool) : List Request → Bool
  | [] => true
  | .host op arg :: rest =>
    match op.toNat with
    | 0 => hostOk true rest
    | 1 => started && hostOk started rest
    | 2 => (slotOf arg).isSome && hostOk started rest
    | 3 => (slotOf arg).isSome && hostOk started rest
    | 4 => (slotOf arg).isSome && hostOk started rest
    | 5 => (slotOf arg).isSome && hostOk started rest
    | _ => false
  | .reset :: rest => hostOk false rest
  | .scan :: rest => hostOk started rest
  | .record _ :: rest => hostOk started rest
  | .field _ _ :: rest => hostOk started rest

/-- A signed field holds a value the decode can produce: never -32768 (10_state.md R11). -/
def signedOk (v : S16) : Bool := v != 0x8000

/-- The signed fields of a slot hold such values. -/
def targetOk (t : Target) : Bool := signedOk t.x && signedOk t.y && signedOk t.speed

/-- The sequencer is working on a candidate: the scan index is still that of a match (40_frame_sync.md R70). -/
def inMatch : Seq → Bool
  | .rec0 => true
  | .rec1 => true
  | .rec2 => true
  | .adv => true
  | .idle => false
  | .fill => false
  | .test => false
  | .done => false

/-- The invariant of the block: every slot holds values the decode can produce (R11); the capacity is at least 1 (00_scope.md R2); the
buffer has its canonical form and lies below CAP (R15); LEN and `|rx|` are at most CAP (R18, 20_memory.md R31) and every position below LEN holds a
received byte (R33); the scan index is at most CAP + 29 (R17) and below LEN while a match is worked on (R70, R73); a REFRESH
is in progress only after BEGIN (44_host_operations.md R145). -/
def inv (s : State) : Bool :=
  targetOk s.tgt.slot0 && targetOk s.tgt.slot1 && targetOk s.tgt.slot2 &&
  s.buf.wf && s.buf.below s.cap && decide (1 ≤ s.cap) &&
  decide (s.len ≤ s.cap) && decide (s.rx.length ≤ s.cap) &&
  (List.range s.len).all (fun j => (s.buf.read j).isSome) &&
  decide (s.i ≤ s.cap + 29) &&
  (!inMatch s.seq || decide (s.i < s.len)) &&
  (s.seq == .idle || s.started)

end Sys2Proof.Safety
end

