-- ==== Sys2Proof/Certificates/Slice0/Obligations.lean ====
section
/-! DEFINITION. The statements for the provers. Each docstring names the rules of spec/ it formalises. A statement about every
state holds for every value of the registers the spec leaves open at reset and of the model's own fields. -/

open Sys2Proof Sys2Proof.Machine Sys2Proof.Safety

/-! ## Reset (10_state.md R24, 70_reset_and_hazards.md R180) -/

/-- R24, the values the spec gives: all slots zero, STARTED 0, SEQ idle, and every accessor answers 0. Nothing is said of BITRATE,
BUF, LEN and I, whose reset values are the model's choice (logs 6, 7, 8). -/
def Obligations.ResetValues : Prop :=
  State.reset.tgt = ⟨⟨0, 0, 0, 0⟩, ⟨0, 0, 0, 0⟩, ⟨0, 0, 0, 0⟩⟩ ∧ State.reset.started = false ∧ State.reset.seq = .idle ∧
  ∀ k : Fin 3,
    exec (.getX k.val) State.reset = .next { State.reset with result := .signed 0 } ∧
    exec (.getY k.val) State.reset = .next { State.reset with result := .signed 0 } ∧
    exec (.getSpeed k.val) State.reset = .next { State.reset with result := .signed 0 } ∧
    exec (.getRes k.val) State.reset = .next { State.reset with result := .unsigned 0 }

/-- R180, R24: a reset between operations clears the slots and STARTED and leaves the block idle, whatever the state was, and the
environment's further requests and inputs are still there (the model's choice, log 15). -/
def Obligations.ResetEventClearsBlock : Prop :=
  ∀ (s : State) (rest : List Request), s.seq = .idle → s.pending = .reset :: rest →
    ∃ t, step s = .next t ∧ t.tgt = ⟨⟨0, 0, 0, 0⟩, ⟨0, 0, 0, 0⟩, ⟨0, 0, 0, 0⟩⟩ ∧ t.started = false ∧ t.seq = .idle ∧
      t.pending = rest ∧ t.serial = s.serial

/-! ## The step -/

/-- An idle block whose first request yields an item that decodes to an instruction runs exactly that instruction, the request being
taken from the list first (44_host_operations.md R140; the requests are the model's device, logs 4 and 10). -/
def Obligations.StepRunsDecodedInstruction : Prop :=
  ∀ (s : State) (r : Request) (rest : List Request) (raw : RawItem) (i : Instr),
    s.seq = .idle → s.pending = r :: rest → fetch (s.setPending rest) r = some raw → decode raw = .ok i → i.wf = true →
    step s = exec i (s.setPending rest)

/-- A host request is decoded from its own selector and operand, so by the table of R60; the step runs that operation. -/
def Obligations.StepRunsHostOperation : Prop :=
  ∀ (s : State) (op : BitVec 3) (arg : Int) (rest : List Request),
    s.seq = .idle → s.pending = .host op arg :: rest →
    (∀ h, decodeHost op arg = .ok h → step s = exec h.toInstr (s.setPending rest)) ∧
    (6 ≤ op.toNat → step s = .refused (.undecodable (.noOperation op)))

/-- R148: without a request an idle block changes nothing. -/
def Obligations.IdleBlockKeepsState : Prop :=
  ∀ s : State, s.seq = .idle → s.pending = [] → step s = .next s

/-- R74 to R78, one turn of the scan run by the step: at a candidate with the signature the window there decodes as the frame that is
processed, record by record; at any other candidate the scan index grows by one and nothing else changes.
(That a turn can be requested by itself is the model's device, log 10.) -/
def Obligations.StepRunsScanTurn : Prop :=
  ∀ (s : State) (rest : List Request), s.seq = .idle → s.pending = .scan :: rest → s.i < s.len →
    (sig s s.i = true →
      step s = exec (.dataReport (recordAt s (s.i + 4)) (recordAt s (s.i + 12)) (recordAt s (s.i + 20)))
        (s.setPending rest)) ∧
    (sig s s.i = false → step s = .next { s with pending := rest, i := s.i + 1, result := .nothing })

/-! ## Encodings (30_encoding.md) -/

/-- A few items written out from the spec's encodings decode to what they stand for: frame A of 95_test_vectors.md, the record of V10,
fields of V1 and V3, and the six selectors' ends. -/
def Obligations.WrittenWordsDecode : Prop :=
  decode (.wire .frame30
    [0xAA, 0xFF, 0x03, 0x00, 0x0E, 0x03, 0xB1, 0x86, 0x10, 0x00, 0x68, 0x01, 0x64, 0x80, 0xD0, 0x87, 0x00, 0x80, 0x40, 0x01,
      0x2C, 0x01, 0xC2, 0x81, 0x0C, 0x80, 0x68, 0x01, 0x55, 0xCC]) =
    .ok (.dataReport ⟨0x030E, 0x86B1, 0x0010, 0x0168⟩ ⟨0x8064, 0x87D0, 0x8000, 0x0140⟩ ⟨0x012C, 0x81C2, 0x800C, 0x0168⟩) ∧
  decode (.wire .rec8 [0x0E, 0x03, 0xB1, 0x86, 0x10, 0x00, 0x68, 0x01]) =
    .ok (.record ⟨0x030E, 0x86B1, 0x0010, 0x0168⟩) ∧
  decode (.wire .sm16 [0x0E, 0x83]) = .ok (.smField 0x830E) ∧
  decode (.wire .u16 [0x40, 0x9C]) = .ok (.uField 40000) ∧
  decode (.host 0b000 256000) = .ok (.begin 256000) ∧
  decode (.host 0b101 2) = .ok (.getRes 2)

/-- R60: the selectors 0 to 5 in the spec's order, REFRESH taking nothing from the host, and 6 and 7 naming no operation; the
host operations are these six. -/
def Obligations.HostSelectors : Prop :=
  ∀ (op : BitVec 3) (arg : Int),
    decode (.host op arg) =
      if op = 0 then .ok (.begin arg) else if op = 1 then .ok .refresh else if op = 2 then .ok (.getX arg)
      else if op = 3 then .ok (.getY arg) else if op = 4 then .ok (.getSpeed arg) else if op = 5 then .ok (.getRes arg)
      else .error (.noOperation op)

/-- R51, R53 to R55, R60: every instruction comes back from its encoding, every operand at every value. -/
def Obligations.DecodeEncodeRoundTrip : Prop :=
  ∀ i : Instr, i.wf = true → decode (encode i) = .ok i

/-- The other direction: an item that decodes is the encoding of what it decodes to; only with REFRESH, which takes no operand from the
host (R60), any operand may come, so an item that decodes to REFRESH is selector 1 with some operand, and no wire item is one. -/
def Obligations.EncodeDecodeRoundTrip : Prop :=
  ∀ (raw : RawItem) (i : Instr), decode raw = .ok i →
    (i ≠ .refresh → encode i = raw) ∧ (i = .refresh → ∃ arg, raw = .host 1 arg)

/-- R52, R58: a 30-byte window is a data-report frame exactly when `(w AND mask) = match`, whatever its payload, and is rejected
by name otherwise. -/
def Obligations.FrameMatchAndMask : Prop :=
  ∀ w : List Byte, w.length = 30 →
    (Wire.masked w = Wire.pattern → ∃ r0 r1 r2, decode (.wire .frame30 w) = .ok (.dataReport r0 r1 r2)) ∧
    (Wire.masked w ≠ Wire.pattern → decode (.wire .frame30 w) = .error .notAFrame)

/-! ## Buffer and signature (20_memory.md, 40_frame_sync.md, 41_footer_validator.md) -/

/-- R71, R72: a fill of at least one byte writes `BUF[j]` for all `j < |rx|` and LEN, sets I to 0 and does not touch the rest of the
buffer. -/
def Obligations.FillWritesReceivedBytes : Prop :=
  ∀ s : State, s.seq = .fill → s.rx ≠ [] →
    ∃ m, seqStep s = { s with buf := m, len := s.rx.length, i := 0, seq := .test } ∧
      ∀ j, m.read j = if j < s.rx.length then s.rx[j]? else s.buf.read j

/-- R33: in the scan that follows a fill, a position below LEN reads as the received byte and every other one, also beyond CAP, as
the tail. What the tail is made of is the model's choice (log 3, DESIGN CHOICE): the listed byte of the input, and at a position not
listed the free byte `Config.freeByte` of this REFRESH and position, of which nothing is known. -/
def Obligations.BufferReadPrimitive : Prop :=
  ∀ (s : State) (j : Nat), s.seq = .fill → s.rx ≠ [] →
    (∀ b, s.rx[j]? = some b → bufByte (seqStep s) j = b) ∧
    (s.rx.length ≤ j →
      (∀ b, s.tail.lookup j = some b → bufByte (seqStep s) j = b) ∧
      (s.tail.lookup j = none → bufByte (seqStep s) j = Config.freeByte s.draws j))

/-- R35: `B2(j) = B(j+1) * 256 + B(j)`, and the sign bit is bit 7 of `B(j+1)`. -/
def Obligations.FieldByteOrder : Prop :=
  ∀ (s : State) (j : Nat),
    (bufHalf s j).toNat = (bufByte s (j + 1)).toNat * 256 + (bufByte s j).toNat ∧
    (bufHalf s j).msb = (bufByte s (j + 1)).msb

/-- R74, R75, R90: the header comparator, the footer comparator, and the signature test as the test of R52 on the window, with no
comparison against LEN. -/
def Obligations.SignatureTest : Prop :=
  ∀ (s : State) (i : Nat),
    (hdrCmp s i = true ↔
      bufByte s i = 0xAA ∧ bufByte s (i + 1) = 0xFF ∧ bufByte s (i + 2) = 0x03 ∧ bufByte s (i + 3) = 0x00) ∧
    (ftrCmp s i = true ↔ bufByte s (i + 28) = 0x55 ∧ bufByte s (i + 29) = 0xCC) ∧
    (sig s i = true ↔ hdrCmp s i = true ∧ ftrCmp s i = true) ∧
    (sig s i = true ↔ Wire.masked (window s i 30) = Wire.pattern)

/-! ## Field extraction (42_field_extract.md) -/

/-- R103: SMFIELD hands back `r - 0x8000` where bit 15 is set and `-r` where it is clear, as bit patterns `{0, m}` and the
two's-complement negation; it changes nothing else. -/
def Obligations.SmFieldDecodes : Prop :=
  ∀ (r : U16) (s : State), ∃ v : S16,
    exec (.smField r) s = .next { s with result := .signed v } ∧
    (r.msb = true → v.toInt = (r.toNat : Int) - 0x8000 ∧ v = r &&& 0x7FFF) ∧
    (r.msb = false → v.toInt = -(r.toNat : Int) ∧ v = -r)

/-- R106, items 2, 3 and 5: the range without -32768, the two encodings of zero, one encoding for every other value, the symmetry. -/
def Obligations.SignMagnitudeLaws : Prop :=
  (∀ r : U16, -32767 ≤ (smdec r).toInt ∧ (smdec r).toInt ≤ 32767) ∧
  (∀ r : U16, (smdec r).toInt = 0 ↔ r = 0x0000 ∨ r = 0x8000) ∧
  (∀ (v : Nat) (r : U16), 1 ≤ v → v ≤ 32767 → ((smdec r).toInt = (v : Int) ↔ r = BitVec.ofNat 16 (0x8000 + v))) ∧
  (∀ (v : Nat) (r : U16), 1 ≤ v → v ≤ 32767 → ((smdec r).toInt = -(v : Int) ↔ r = BitVec.ofNat 16 v)) ∧
  (∀ m : Nat, m ≤ 32767 →
    (smdec (BitVec.ofNat 16 (0x8000 + m))).toInt = -(smdec (BitVec.ofNat 16 m)).toInt)

/-- R104: UFIELD hands back the raw value, unsigned, and changes nothing else. -/
def Obligations.UFieldKeepsValue : Prop :=
  ∀ (r : U16) (s : State),
    exec (.uField r) s = .next { s with result := .unsigned r } ∧ (Result.unsigned r).number = some (r.toNat : Int)

/-- R105: REC hands back the four fields, each decoded on its own, and writes nothing. -/
def Obligations.RecordDecodes : Prop :=
  ∀ (r : RawRecord) (s : State),
    exec (.record r) s =
      .next { s with result := .target ⟨smdec r.x, smdec r.y, smdec r.speed, r.resolution⟩ }

/-- R102, R105, R56 at the step: the record extractor run at a record that fits hands back the decode of its eight received bytes, each
field little-endian at its offset. (That it can be run by itself is the model's device, log 10.) -/
def Obligations.StepExtractsRecord : Prop :=
  ∀ (s : State) (k : Fin 3) (rest : List Request), s.seq = .idle → s.pending = .record k :: rest → recFit s.i k s.len = true →
    step s = .next { s with
      pending := rest
      result := .target
        ⟨smdec (bufHalf s (s.i + 4 + 8 * k.val)), smdec (bufHalf s (s.i + 4 + 8 * k.val + 2)),
          smdec (bufHalf s (s.i + 4 + 8 * k.val + 4)), bufHalf s (s.i + 4 + 8 * k.val + 6)⟩ }

/-- R54, R55, R56 at the step: `x`, `y` and `speed` are decoded as sign-magnitude, `resolution` is taken as read, each from its own offset
in a record that fits. (That it can be run by itself is the model's device, log 10.) -/
def Obligations.StepExtractsField : Prop :=
  ∀ (s : State) (k : Fin 3) (f : Field) (rest : List Request),
    s.seq = .idle → s.pending = .field k f :: rest → recFit s.i k s.len = true →
    step s = .next { s with
      pending := rest
      result := match f with
        | .x => .signed (smdec (bufHalf s (s.i + 4 + 8 * k.val)))
        | .y => .signed (smdec (bufHalf s (s.i + 4 + 8 * k.val + 2)))
        | .speed => .signed (smdec (bufHalf s (s.i + 4 + 8 * k.val + 4)))
        | .resolution => .unsigned (bufHalf s (s.i + 4 + 8 * k.val + 6)) }

/-! ## A match (40_frame_sync.md R76 to R78) -/

/-- R76, R78, R101, R107: DATA_REPORT at scan index I writes slot `k` with the decode of record `k` exactly when
`I + 4 + 8k + 8 <= LEN`, leaves the other slots alone, advances I by 30, and changes nothing else. -/
def Obligations.DataReportEffect : Prop :=
  ∀ (r0 r1 r2 : RawRecord) (s : State), ∃ r : RegFile,
    exec (.dataReport r0 r1 r2) s = .next { s with tgt := r, i := s.i + 30, result := .nothing } ∧
    r.slot0 = (if s.i + 12 ≤ s.len then ⟨smdec r0.x, smdec r0.y, smdec r0.speed, r0.resolution⟩ else s.tgt.slot0) ∧
    r.slot1 = (if s.i + 20 ≤ s.len then ⟨smdec r1.x, smdec r1.y, smdec r1.speed, r1.resolution⟩ else s.tgt.slot1) ∧
    r.slot2 = (if s.i + 28 ≤ s.len then ⟨smdec r2.x, smdec r2.y, smdec r2.speed, r2.resolution⟩ else s.tgt.slot2)

/-- R108: the slots one match writes are all three, the first two, the first, or none, by LEN alone; and where all three fit and LEN is
I + 28 or I + 29, the last footer byte is a tail byte. -/
def Obligations.FitIsMonotone : Prop :=
  ∀ (r0 r1 r2 : RawRecord) (s : State), ∃ t, exec (.dataReport r0 r1 r2) s = .next t ∧
    (s.i + 28 ≤ s.len → t.tgt = ⟨recDec r0, recDec r1, recDec r2⟩) ∧
    (s.i + 20 ≤ s.len ∧ s.len < s.i + 28 → t.tgt = ⟨recDec r0, recDec r1, s.tgt.slot2⟩) ∧
    (s.i + 12 ≤ s.len ∧ s.len < s.i + 20 → t.tgt = ⟨recDec r0, s.tgt.slot1, s.tgt.slot2⟩) ∧
    (s.len < s.i + 12 → t.tgt = s.tgt) ∧
    (s.i + 28 ≤ s.len ∧ s.len < s.i + 30 → bufByte s (s.i + 29) = tailByte s (s.i + 29))

/-- R101 with R33: a record that fits is read from received bytes alone: two REFRESHes that received the same bytes read the same record,
whatever their tails and old buffers. -/
def Obligations.TailNeverReachesSlot : Prop :=
  ∀ (s s' : State) (i : Nat) (k : Fin 3), s.seq = .fill → s'.seq = .fill → s.rx = s'.rx → s.rx ≠ [] →
    recFit i k s.rx.length = true →
    recordAt (seqStep s) (recOff i k) = recordAt (seqStep s') (recOff i k)

/-! ## The register file (43_target_regfile.md, 10_state.md) -/

/-- R120: a record write replaces all four fields of its slot, leaves the other two slots as they were, and changes nothing
else. -/
def Obligations.RecordWriteReplacesSlot : Prop :=
  ∀ (k : Fin 3) (v : Target) (s : State), ∃ r : RegFile,
    recWr k v s = { s with tgt := r } ∧ r.get k = v ∧ ∀ j, j ≠ k → r.get j = s.tgt.get j

/-- R12: the packed view of a slot, field by field. -/
def Obligations.PackedSlotLayout : Prop :=
  ∀ t : Target,
    t.packed.extractLsb' 0 16 = t.x ∧ t.packed.extractLsb' 16 16 = t.y ∧
    t.packed.extractLsb' 32 16 = t.speed ∧ t.packed.extractLsb' 48 16 = t.resolution

/-- R122: GET_X hands back the `x` of the slot its index names, and changes nothing else. For every other integer it hands back
RangeError; that this is a NEXT state, where R161 asks for a fault of the step, is the model's choice (log 1, DEDUCED). -/
def Obligations.GetXReadsSlot : Prop :=
  ∀ (index : Int) (s : State), exec (.getX index) s = .next { s with result := (
    if index = 0 then .signed s.tgt.slot0.x
    else if index = 1 then .signed s.tgt.slot1.x
    else if index = 2 then .signed s.tgt.slot2.x
    else .error (.rangeError index)) }

/-- R123: as GET_X, for `y`. The RangeError of a bad index as a NEXT state is the model's choice (log 1, DEDUCED). -/
def Obligations.GetYReadsSlot : Prop :=
  ∀ (index : Int) (s : State), exec (.getY index) s = .next { s with result := (
    if index = 0 then .signed s.tgt.slot0.y
    else if index = 1 then .signed s.tgt.slot1.y
    else if index = 2 then .signed s.tgt.slot2.y
    else .error (.rangeError index)) }

/-- R124: as GET_X, for `speed`. The RangeError of a bad index as a NEXT state is the model's choice (log 1, DEDUCED). -/
def Obligations.GetSpeedReadsSlot : Prop :=
  ∀ (index : Int) (s : State), exec (.getSpeed index) s = .next { s with result := (
    if index = 0 then .signed s.tgt.slot0.speed
    else if index = 1 then .signed s.tgt.slot1.speed
    else if index = 2 then .signed s.tgt.slot2.speed
    else .error (.rangeError index)) }

/-- R125: as GET_X, for `resolution`, which is handed back unsigned, as a number from 0 to 65535. The RangeError of a bad index as a
NEXT state is the model's choice (log 1, DEDUCED). -/
def Obligations.GetResReadsSlot : Prop :=
  ∀ (index : Int) (s : State), (exec (.getRes index) s = .next { s with result := (
    if index = 0 then .unsigned s.tgt.slot0.resolution
    else if index = 1 then .unsigned s.tgt.slot1.resolution
    else if index = 2 then .unsigned s.tgt.slot2.resolution
    else .error (.rangeError index)) }) ∧
    ∀ v : U16, (Result.unsigned v).number = some (v.toNat : Int)

/-- The model's choice of log 1 (DEDUCED; R161 asks a model for a fault of the step, R168 and R169 say that control returns and nothing
changes): for every integer but 0, 1 and 2 each accessor answers a NEXT state whose result is RangeError of that integer with error
code 1, whatever the register file holds, and nothing else is changed. -/
def Obligations.BadIndexGivesRangeError : Prop :=
  ∀ (index : Int) (s : State), index ≠ 0 → index ≠ 1 → index ≠ 2 →
    exec (.getX index) s = .next { s with result := .error (.rangeError index) } ∧
    exec (.getY index) s = .next { s with result := .error (.rangeError index) } ∧
    exec (.getSpeed index) s = .next { s with result := .error (.rangeError index) } ∧
    exec (.getRes index) s = .next { s with result := .error (.rangeError index) } ∧
    (Result.error (.rangeError index)).errorCode = 1

/-- RangeError comes from the four accessors and from no other operation, exactly when their index is not 0, 1 or 2; it carries that index
and changes nothing; every other operation that completes has error code 0 (60_exceptions.md section 1). That the error appears in
a NEXT state, of which this statement speaks, is the model's choice (log 1, DEDUCED). -/
def Obligations.OnlyAccessorsRaiseRangeError : Prop :=
  ∀ (i : Instr) (s t : State), exec i s = .next t →
    (t.result.errorCode = 1 ∨ t.result.errorCode = 0) ∧
    (t.result.errorCode = 1 ↔
      ∃ index : Int, (index ≠ 0 ∧ index ≠ 1 ∧ index ≠ 2) ∧
        (i = .getX index ∨ i = .getY index ∨ i = .getSpeed index ∨ i = .getRes index)) ∧
    (t.result.errorCode = 1 → ∃ index : Int,
      (i = .getX index ∨ i = .getY index ∨ i = .getSpeed index ∨ i = .getRes index) ∧
        t = { s with result := .error (.rangeError index) })

/-- R160, R162: the four abnormal conditions. EV0 ends a REFRESH with `false` and no slot changed; EV1 moves the scan on by one byte and
changes nothing else; EV2 leaves the slot of the record as it was, and the match is passed all the same; EV3 alone is surfaced.
That the accessor of EV3 answers a NEXT state is the model's choice (log 1, DEDUCED). -/
def Obligations.AbnormalConditions : Prop :=
  (∀ s : State, s.started = true → noDataAt s = true → ∃ t, exec .refresh s = .next t ∧
    t.result = .bool false ∧ t.tgt = s.tgt ∧ t.result.errorCode = Condition.noData.errorCode) ∧
  (∀ s : State, s.seq = .test → unsynchronizedAt s s.i = true → seqStep s = { s with i := s.i + 1 }) ∧
  (∀ (s : State) (k : Fin 3), truncatedAt s s.i k = true →
    ∃ t, exec (.dataReport (recordAt s (s.i + 4)) (recordAt s (s.i + 12)) (recordAt s (s.i + 20))) s = .next t ∧
      t.tgt.get k = s.tgt.get k ∧ t.i = s.i + 30 ∧ t.result.errorCode = Condition.truncated.errorCode) ∧
  (∀ (s : State) (index : Int),
    (outOfRangeIndex index = true ↔ index ≠ 0 ∧ index ≠ 1 ∧ index ≠ 2) ∧
    (outOfRangeIndex index = true → ∃ t, exec (.getX index) s = .next t ∧ exec (.getY index) s = .next t ∧
      exec (.getSpeed index) s = .next t ∧ exec (.getRes index) s = .next t ∧
      t.result = .error (.rangeError index) ∧ t.result.errorCode = Condition.outOfRange.errorCode))

/-- R169: after a RangeError the block is idle, and the next operation proceeds as if the failing one had not been issued. That the
failing step itself answers a NEXT state is the model's choice (log 1, DEDUCED). -/
def Obligations.RangeErrorLeavesNoTrace : Prop :=
  ∀ (s : State) (op : BitVec 3) (index : Int) (r : Request) (rest : List Request),
    s.seq = .idle → s.pending = .host op index :: r :: rest → 2 ≤ op.toNat → op.toNat ≤ 5 →
    index ≠ 0 → index ≠ 1 → index ≠ 2 →
    ∃ t, step s = .next t ∧ t.result = .error (.rangeError index) ∧ t.seq = .idle ∧
      step t = step (s.setPending (r :: rest))

/-- R127, R38: an accessor reads the register file and nothing else, and changes nothing: two states with the same register file,
started or not, get the same answer, and an accessor issued again gives the same answer again. For a bad
index the answer is the error, in a NEXT state by the model's choice (log 1, DEDUCED). -/
def Obligations.AccessorsArePure : Prop :=
  ∀ (i : Instr) (index : Int), (i = .getX index ∨ i = .getY index ∨ i = .getSpeed index ∨ i = .getRes index) →
    ∀ s s' : State, s.tgt = s'.tgt → ∃ r : Result,
      exec i s = .next { s with result := r } ∧ exec i s' = .next { s' with result := r } ∧
      exec i { s with result := r } = .next { s with result := r }

/-! ## BEGIN and REFRESH (44_host_operations.md) -/

/-- R141: BEGIN stores the bitrate, sets STARTED, hands nothing back, and leaves everything else, the slots among it, alone; the first
time and every later time. -/
def Obligations.BeginEffect : Prop :=
  ∀ (b : Int) (s : State),
    exec (.begin b) s = .next { s with bitrate := b, started := true, result := .nothing }

/-- R142, R143, R82: after BEGIN a REFRESH completes, for every input; the register file becomes `scan(TGT, rx, tail)`, the result
is `|rx| >= 1`, and the frame: STARTED, BITRATE and the pending requests stay, the input is consumed, LEN is `|rx|`, the buffer holds
`rx` below LEN and is unchanged elsewhere, and the block is idle. The clauses on `serial`, `draws`, `rx` and `tail` speak of fields that
are the model's choice (logs 3, 4, 20). -/
def Obligations.RefreshComputesScan : Prop :=
  ∀ s : State, s.started = true → ∃ t, exec .refresh s = .next t ∧
    t.tgt = scan s.tgt (nextRx s) (nextTail s) ∧
    t.result = .bool (decide (1 ≤ (nextRx s).length)) ∧
    t.cap = s.cap ∧ t.started = s.started ∧ t.bitrate = s.bitrate ∧ t.pending = s.pending ∧
    t.serial = s.serial.tail ∧ t.draws = s.draws + 1 ∧
    t.len = (nextRx s).length ∧ t.seq = .idle ∧ t.rx = [] ∧ t.tail = [] ∧
    ∀ j, t.buf.read j =
      if j < (nextRx s).length then (nextRx s)[j]? else s.buf.read j

/-- R144: with no bytes a REFRESH returns false and changes no persistent state and no byte of the buffer. -/
def Obligations.RefreshWithoutData : Prop :=
  ∀ s : State, s.started = true → nextRx s = [] → ∃ t, exec .refresh s = .next t ∧
    t.result = .bool false ∧ t.tgt = s.tgt ∧ t.started = s.started ∧ t.bitrate = s.bitrate ∧
    (∀ j, t.buf.read j = s.buf.read j) ∧ t.seq = .idle ∧ t.pending = s.pending

/-- R145: REFRESH while STARTED = 0 is refused. -/
def Obligations.RefreshBeforeBeginRefused : Prop :=
  ∀ s : State, s.started = false → exec .refresh s = .refused .refreshBeforeBegin

/-- R14, R80, R143: a REFRESH in which no offset has the signature leaves all slots as they were, and its result still only says
whether bytes were read. -/
def Obligations.NoMatchLeavesSlots : Prop :=
  ∀ s : State, s.started = true →
    (∀ i, i < (nextRx s).length → inputSig (nextRx s) (nextTail s) i = false) →
    ∃ t, exec .refresh s = .next t ∧ t.tgt = s.tgt ∧ t.result = .bool (decide (1 ≤ (nextRx s).length))

/-! ## The sequencer (40_frame_sync.md R70) -/

/-- R70, row by row, from the acceptance of the input to the handing back of the result. The clauses of the row IDLE on `serial` and `draws`
and those of the row DONE that clear `rx` and `tail` are the model's choices (logs 3, 4, 20), not R70's. -/
def Obligations.SequencerRows : Prop :=
  (∀ s : State, accept s = { s with
    seq := .fill, rx := nextRx s, tail := (nextInput s).tail, serial := s.serial.tail, draws := s.draws + 1 }) ∧
  (∀ s : State, s.seq = .fill → s.rx = [] → seqStep s = { s with len := 0, seq := .done }) ∧
  (∀ s : State, s.seq = .fill → s.rx ≠ [] →
    seqStep s = { s with buf := s.buf.writeAll 0 s.rx, len := s.rx.length, i := 0, seq := .test }) ∧
  (∀ s : State, s.seq = .test → s.len ≤ s.i → seqStep s = { s with seq := .done }) ∧
  (∀ s : State, s.seq = .test → s.i < s.len → sig s s.i = true → seqStep s = { s with seq := .rec0 }) ∧
  (∀ s : State, s.seq = .test → s.i < s.len → sig s s.i = false → seqStep s = { s with i := s.i + 1 }) ∧
  (∀ s : State, s.seq = .rec0 → seqStep s = { s with
    seq := .rec1, tgt := if s.i + 12 ≤ s.len then { s.tgt with slot0 := recDec (recordAt s (s.i + 4)) } else s.tgt }) ∧
  (∀ s : State, s.seq = .rec1 → seqStep s = { s with
    seq := .rec2, tgt := if s.i + 20 ≤ s.len then { s.tgt with slot1 := recDec (recordAt s (s.i + 12)) } else s.tgt }) ∧
  (∀ s : State, s.seq = .rec2 → seqStep s = { s with
    seq := .adv, tgt := if s.i + 28 ≤ s.len then { s.tgt with slot2 := recDec (recordAt s (s.i + 20)) } else s.tgt }) ∧
  (∀ s : State, s.seq = .adv → seqStep s = { s with i := s.i + 30, seq := .test }) ∧
  (∀ s : State, s.seq = .done → seqStep s = { s with
    seq := .idle, result := .bool (decide (1 ≤ s.len)), rx := [], tail := [] })

/-- R19, R70: a block with a REFRESH in progress spends its step on one row of the table; no request is taken before it is idle
again. -/
def Obligations.StepContinuesRefresh : Prop :=
  ∀ s : State, s.seq ≠ .idle → step s = .next (seqStep s) ∧ (seqStep s).pending = s.pending

/-- R70, R82, for every capacity `s.cap`: the rows of the sequencer, one after the other, do exactly what a REFRESH does as one operation; it is
idle again after at most five rows per received byte and three more, and not before it is done. -/
def Obligations.SequencerRefinesRefresh : Prop :=
  ∀ s : State, ∃ n, n ≤ 5 * (nextRx s).length + 3 ∧
    seqRun n (accept s) = runRefresh s ∧ (runRefresh s).seq = .idle ∧
    ∀ m, m < n → (seqRun m (accept s)).seq ≠ .idle

/-! ## What a scan finds (R41, R79, R83) -/

/-- R41: the matches of a REFRESH come in increasing order of the scan index, and after it each slot holds the record of the last match
(highest I) whose record for that slot passed the bounds check, or what it held before. -/
def Obligations.LastFittingMatchWins : Prop :=
  ∀ (s : State) (k : Fin 3), s.started = true → ∃ t, exec .refresh s = .next t ∧
    (scanMatches (nextRx s) (nextTail s)).Pairwise (fun i j => i < j) ∧
    t.tgt.get k =
      match ((scanMatches (nextRx s) (nextTail s)).filter
          (fun i => decide (i + 4 + 8 * k.val + 8 ≤ (nextRx s).length))).getLast? with
      | some i => inputTarget (nextRx s) (nextTail s) (i + 4 + 8 * k.val)
      | none => s.tgt.get k

/-- R79, R75: the matches come in increasing order and their windows do not overlap; each is an offset below LEN with the
signature, and every such offset is a match or lies inside a matched window. -/
def Obligations.MatchesAreDisjointAndComplete : Prop :=
  ∀ (rx : List Byte) (tail : Nat → Byte),
    (scanMatches rx tail).Pairwise (fun i j => i + 30 ≤ j) ∧
    (∀ i ∈ scanMatches rx tail, i < rx.length ∧ inputSig rx tail i = true) ∧
    (∀ i, i < rx.length → inputSig rx tail i = true → ∃ j ∈ scanMatches rx tail, j ≤ i ∧ i < j + 30)

/-- R79, R194 for CAP = 80: at most three matches, a third one only at offset 60 or later and truncated, and at most eight record
writes. -/
def Obligations.MatchesPerBuffer : Prop :=
  ∀ (rx : List Byte) (tail : Nat → Byte), rx.length ≤ 80 →
    (scanMatches rx tail).length ≤ 3 ∧
    (∀ i, (scanMatches rx tail)[2]? = some i → 60 ≤ i ∧ rx.length < i + 30) ∧
    ((scanMatches rx tail).map (fun i =>
      (if i + 12 ≤ rx.length then 1 else 0) + (if i + 20 ≤ rx.length then 1 else 0) +
        (if i + 28 ≤ rx.length then 1 else 0))).sum ≤ 8

/-- R83: the tail can matter only where `rx` holds the four header bytes at an offset `i` with `i + 12 <= LEN < i + 30`, the scan reaches that
offset (no match before it covers it), and there is either no footer byte in `rx` or a right first one. Outside that case REFRESH
is a function of TGT and `rx` alone. -/
def Obligations.TailMattersOnlyAtTruncatedHeader : Prop :=
  ∀ s s' : State, s.started = true → s'.started = true → s.tgt = s'.tgt → nextRx s = nextRx s' →
    (¬ ∃ i, (nextRx s)[i]? = some 0xAA ∧ (nextRx s)[i + 1]? = some 0xFF ∧
        (nextRx s)[i + 2]? = some 0x03 ∧ (nextRx s)[i + 3]? = some 0x00 ∧
        i + 12 ≤ (nextRx s).length ∧ (nextRx s).length < i + 30 ∧
        (∀ m ∈ scanMatches (nextRx s) (nextTail s), ¬ (m < i ∧ i < m + 30)) ∧
        ((nextRx s).length ≤ i + 28 ∨ (nextRx s)[i + 28]? = some 0x55)) →
    ∃ t t', exec .refresh s = .next t ∧ exec .refresh s' = .next t' ∧ t.tgt = t'.tgt ∧ t.result = t'.result

/-- R81, R15: nothing is carried from one scan of a block to the next: old buffer, LEN, I, bitrate and result do not matter; only the register file
links two REFRESHes. That the input of a REFRESH is given by `serial` and `draws` is the model's choice (logs 3, 4). -/
def Obligations.RefreshIgnoresEarlierScans : Prop :=
  ∀ s s' : State, s.started = true → s'.started = true → s.cap = s'.cap → s.tgt = s'.tgt → s.serial = s'.serial →
    s.draws = s'.draws →
    ∃ t t', exec .refresh s = .next t ∧ exec .refresh s' = .next t' ∧
      t.tgt = t'.tgt ∧ t.result = t'.result ∧ t.len = t'.len

/-! ## Whole frames (95_test_vectors.md S2 to S4, for every payload) -/

/-- R36, R80, R76, S2: a frame with any payload, at any offset behind bytes without `AA`, is found and all three slots take its
records. -/
def Obligations.FrameAfterNoiseIsDecoded : Prop :=
  ∀ (s : State) (noise : List Byte) (p : Payload), s.started = true → (0xAA : Byte) ∉ noise →
    nextRx s = noise ++ encodeFrame p →
    ∃ t, exec .refresh s = .next t ∧ t.tgt = ⟨recDec p.rec0, recDec p.rec1, recDec p.rec2⟩ ∧ t.result = .bool true

/-- R78, R41, S3: of two frames back to back the second one's records stay. -/
def Obligations.BackToBackFramesSecondWins : Prop :=
  ∀ (s : State) (p q : Payload), s.started = true → nextRx s = encodeFrame p ++ encodeFrame q →
    ∃ t, exec .refresh s = .next t ∧ t.tgt = ⟨recDec q.rec0, recDec q.rec1, recDec q.rec2⟩ ∧ t.result = .bool true

/-- R92, R107, R108, S4: a frame cut off inside its third record, whose footer the tail supplies, updates slots 0 and 1 and leaves
slot 2 as it was. -/
def Obligations.TruncatedFrameKeepsSlotTwo : Prop :=
  ∀ (s : State) (p : Payload) (n : Nat), s.started = true → 20 ≤ n → n < 28 →
    nextRx s = (encodeFrame p).take n → nextTail s 28 = 0x55 → nextTail s 29 = 0xCC →
    ∃ t, exec .refresh s = .next t ∧ t.tgt = ⟨recDec p.rec0, recDec p.rec1, s.tgt.slot2⟩ ∧ t.result = .bool true

/-- R91 (b), R93, S2: a frame with one of its six magic bytes changed is rejected, whatever its payload and the tail: the window is no
frame, the signature test fails at its offset, and no match is found there. Where no later byte is `AA`, so that no other offset can
match (R93), a REFRESH leaves all slots as they were. -/
def Obligations.CorruptedMagicIsRejected : Prop :=
  ∀ (s : State) (p : Payload) (n : Nat) (b : Byte), n ∈ [0, 1, 2, 3, 28, 29] →
    (encodeFrame p)[n]? ≠ some b → nextRx s = (encodeFrame p).set n b →
    decode (.wire .frame30 (nextRx s)) = .error .notAFrame ∧
    inputSig (nextRx s) (nextTail s) 0 = false ∧ 0 ∉ scanMatches (nextRx s) (nextTail s) ∧
    (s.started = true → (∀ j, 1 ≤ j → (nextRx s)[j]? ≠ some 0xAA) →
      ∃ t, exec .refresh s = .next t ∧ t.tgt = s.tgt ∧ t.result = .bool true)

/-! ## Whole-machine rules -/

/-- R11, R15, R17, R18, R31: every step keeps the invariant of the block, from every state that meets it, so for every capacity of at
least 1 (R2) (`Safety.inv`). -/
def Obligations.StepKeepsInvariant : Prop :=
  ∀ s t : State, inv s = true → step s = .next t → inv t = true

/-- The state after reset meets the invariant. That CAP is 80 there is the reference value (R2, log 9); that LEN and I meet it and that the
buffer lists nothing is the model's choice (logs 7 and 8, DESIGN CHOICE): R24 leaves the three unspecified. -/
def Obligations.ResetMeetsInvariant : Prop :=
  inv State.reset = true

/-- R145: an instruction never faults, and the only one that can be refused is REFRESH while STARTED = 0. That an accessor with a bad index
answers a NEXT state too, where R161 asks for a fault of the step, is the model's choice (log 1, DEDUCED). -/
def Obligations.OnlyRefreshBeforeBeginStops : Prop :=
  ∀ (i : Instr) (s : State),
    (∃ t, exec i s = .next t) ∨ (i = .refresh ∧ s.started = false ∧ exec i s = .refused .refreshBeforeBegin)

/-- R13, R148: the slots change only in a REFRESH (its record writes) and at reset: a step that changes them took one of those
requests, or one turn of a scan (the model's device, log 10), or carried out a record row of a REFRESH in
progress. -/
def Obligations.SlotWriters : Prop :=
  ∀ s t : State, step s = .next t → t.tgt ≠ s.tgt →
    (s.seq = .idle ∧ ∃ r rest, s.pending = r :: rest ∧
      (r = .reset ∨ r = .scan ∨ ∃ arg, r = .host 1 arg)) ∨
    s.seq = .rec0 ∨ s.seq = .rec1 ∨ s.seq = .rec2

/-- R20: STARTED changes only in a BEGIN, which sets it, and at reset, which clears it. -/
def Obligations.StartedWriters : Prop :=
  ∀ s t : State, step s = .next t → t.started ≠ s.started →
    s.seq = .idle ∧
      ((∃ arg rest, s.pending = .host 0 arg :: rest ∧ t.started = true) ∨
        (∃ rest, s.pending = .reset :: rest ∧ t.started = false))

/-- R22: no rule reads BITRATE: whatever it holds, a step does the same to everything else and stops in the same cases. So nothing
rests on its reset value, which the model chose (log 6). -/
def Obligations.BitrateIsNeverRead : Prop :=
  ∀ (s : State) (b : Int),
    (∀ t, step s = .next t → ∃ b', step (s.setBitrate b) = .next (t.setBitrate b')) ∧
    (∀ r, step s = .refused r → step (s.setBitrate b) = .refused r)

/-- R181, R189: a host that keeps its side of the contract meets neither a refusal nor an error: its next request completes with error
code 0, and it still keeps the contract. -/
def Obligations.ContractAvoidsErrors : Prop :=
  ∀ (s : State) (r : Request) (rest : List Request), s.seq = .idle → s.pending = r :: rest →
    hostOk s.started s.pending = true →
    ∃ t, step s = .next t ∧ t.result.errorCode = 0 ∧ t.seq = .idle ∧ t.pending = rest ∧
      hostOk t.started t.pending = true

/-- R2: CAP is a parameter with the reference value 80, and no step changes it, a reset event neither. That it stands in the state is
the model's choice (log 9). -/
def Obligations.CapacityIsFixed : Prop :=
  State.reset.cap = 80 ∧ ∀ s t : State, step s = .next t → t.cap = s.cap
end

