-- ==== Sys2Proof/Laws/Fields.lean ====
section
/-! SUPPORT. Laws of the field decodes and of the accessor index. -/

namespace Sys2Proof.Machine

/-- The value of the sign-magnitude decode, without wrap (42_field_extract.md R103). -/
theorem smdec_toInt (r : U16) : (smdec r).toInt = if r.msb then (r.toNat : Int) - 0x8000 else -(r.toNat : Int) := by
  have hlt := r.isLt
  have hm := BitVec.msb_eq_decide r
  unfold smdec toS16
  by_cases h : r.msb = true
  · rw [h] at hm
    have h2 : 0x8000 ≤ r.toNat := by simpa using hm.symm
    simp only [h, if_true, BitVec.toInt_ofInt]
    rw [Int.bmod_def]; omega
  · have h' : r.msb = false := by simpa using h
    rw [h'] at hm
    have h2 : r.toNat < 0x8000 := by simpa using hm.symm
    simp only [h', BitVec.toInt_ofInt, Bool.false_eq_true, if_false]
    rw [Int.bmod_def]; omega

/-- Little-endian assembly as a number (20_memory.md R35). -/
theorem le16_toNat (lo hi : Byte) : (le16 lo hi).toNat = hi.toNat * 256 + lo.toNat := by
  have := lo.isLt
  simp only [le16, BitVec.toNat_append]
  rw [← Nat.shiftLeft_add_eq_or_of_lt (by omega), Nat.shiftLeft_eq]

theorem lowByte_toNat (v : U16) : (lowByte v).toNat = v.toNat % 256 := by
  simp [lowByte, BitVec.extractLsb'_toNat]

theorem highByte_toNat (v : U16) : (highByte v).toNat = v.toNat / 256 := by
  have := v.isLt
  simp only [highByte, BitVec.extractLsb'_toNat, Nat.shiftRight_eq_div_pow]
  omega

/-- A field split into its bytes and put together again. -/
@[simp] theorem le16_lowByte_highByte (v : U16) : le16 (lowByte v) (highByte v) = v := by
  apply BitVec.eq_of_toNat_eq
  rw [le16_toNat, lowByte_toNat, highByte_toNat]
  omega

@[simp] theorem lowByte_le16 (lo hi : Byte) : lowByte (le16 lo hi) = lo := by
  apply BitVec.eq_of_toNat_eq
  rw [lowByte_toNat, le16_toNat]
  have := lo.isLt
  omega

@[simp] theorem highByte_le16 (lo hi : Byte) : highByte (le16 lo hi) = hi := by
  apply BitVec.eq_of_toNat_eq
  rw [highByte_toNat, le16_toNat]
  have := lo.isLt
  omega

/-- An index names a slot exactly when it is the slot's number (43_target_regfile.md R126). -/
theorem slotOf_eq_some (index : Int) (k : Fin 3) : slotOf index = some k ↔ index = (k.val : Int) := by
  unfold slotOf
  match k with
  | 0 => split <;> (try split) <;> (try split) <;> simp_all
  | 1 => split <;> (try split) <;> (try split) <;> simp_all
  | 2 => split <;> (try split) <;> (try split) <;> simp_all

theorem slotOf_eq_none (index : Int) : slotOf index = none ↔ index ≠ 0 ∧ index ≠ 1 ∧ index ≠ 2 := by
  unfold slotOf
  split <;> (try split) <;> (try split) <;> simp_all

/-- What the four accessors can do (R126). -/
theorem readSlot_eq (index : Int) (value : Target → Result) (s : State) :
    (∃ k : Fin 3, index = (k.val : Int) ∧ readSlot index value s = .next (s.setResult (value (s.tgt.get k)))) ∨
    ((index ≠ 0 ∧ index ≠ 1 ∧ index ≠ 2) ∧ readSlot index value s = raiseRangeError index s) := by
  unfold readSlot
  cases h : slotOf index with
  | none => exact .inr ⟨(slotOf_eq_none index).mp h, rfl⟩
  | some k => exact .inl ⟨k, (slotOf_eq_some index k).mp h, rfl⟩

end Sys2Proof.Machine
end

