-- ==== Sys2Proof/Laws/Memory.lean ====
section
/-! SUPPORT. Laws of the raw buffer and of the register file: read after write, and that every memory operation keeps the
canonical form. -/

namespace Sys2Proof.Machine

/-! ### One write -/

@[simp] theorem Memory.read_nil (a : Nat) : Memory.read [] a = none := rfl

theorem Memory.read_write_same (m : Memory) (a : Nat) (v : Byte) : (m.write a v).read a = some v := by
  induction m with
  | nil => simp [Memory.write, Memory.read]
  | cons c m ih =>
    obtain ⟨p, b⟩ := c
    by_cases h1 : a < p
    · simp [Memory.write, Memory.read, h1]
    · by_cases h2 : a = p
      · simp [Memory.write, Memory.read, h2]
      · simpa [Memory.write, Memory.read, h1, h2, Ne.symm h2] using ih

theorem Memory.read_write_other (m : Memory) {a x : Nat} (v : Byte) (h : x ≠ a) :
    (m.write a v).read x = m.read x := by
  induction m with
  | nil => simp [Memory.write, Memory.read, h.symm]
  | cons c m ih =>
    obtain ⟨p, b⟩ := c
    by_cases h1 : a < p
    · simp [Memory.write, Memory.read, h1, h.symm]
    · by_cases h2 : a = p
      · subst h2; simp [Memory.write, Memory.read, h.symm]
      · simp [Memory.write, Memory.read, h1, h2, ih]

theorem Memory.wf_write (m : Memory) (a : Nat) (v : Byte) (h : m.wf = true) : (m.write a v).wf = true := by
  induction m with
  | nil => rfl
  | cons c m ih =>
    obtain ⟨p, b⟩ := c
    by_cases h1 : a < p
    · simp [Memory.write, Memory.wf, h1, h]
    · by_cases h2 : a = p
      · subst h2
        cases m with
        | nil => simp [Memory.write, Memory.wf]
        | cons d m => simpa [Memory.write, Memory.wf] using h
      · have hp : p < a := by omega
        cases m with
        | nil => simp [Memory.write, Memory.wf, h1, h2, hp]
        | cons d m =>
          obtain ⟨q, e⟩ := d
          simp only [Memory.wf, Bool.and_eq_true, decide_eq_true_eq] at h
          have ih := ih h.2
          by_cases h3 : a < q
          · simp [Memory.write, Memory.wf, h1, h2, h3, hp, h.2]
          · by_cases h4 : a = q
            · subst h4
              simp only [Memory.write, h3, if_true, if_false] at ih
              simp [Memory.write, Memory.wf, h1, h2, ih, h.1]
            · simp only [Memory.write, h3, h4, if_false] at ih
              simp [Memory.write, Memory.wf, h1, h2, h3, h4, ih, h.1]

theorem Memory.below_write (cap : Nat) (m : Memory) (a : Nat) (v : Byte) (ha : a < cap) (h : m.below cap = true) :
    (m.write a v).below cap = true := by
  induction m with
  | nil => simp [Memory.write, Memory.below, ha]
  | cons c m ih =>
    obtain ⟨p, b⟩ := c
    simp only [Memory.below, List.all_cons, Bool.and_eq_true, decide_eq_true_eq] at h ih ⊢
    by_cases h1 : a < p
    · simp only [Memory.write, h1, if_true, List.all_cons, Bool.and_eq_true, decide_eq_true_eq]; exact ⟨ha, h⟩
    · by_cases h2 : a = p
      · simp only [Memory.write, h2, lt_irrefl, if_true, if_false, List.all_cons, Bool.and_eq_true, decide_eq_true_eq]
        exact ⟨h.1, h.2⟩
      · simp only [Memory.write, h1, h2, if_false, List.all_cons, Bool.and_eq_true, decide_eq_true_eq]
        exact ⟨h.1, ih h.2⟩

/-! ### A run of writes -/

theorem Memory.read_writeAll (bs : List Byte) (m : Memory) (base a : Nat) :
    (m.writeAll base bs).read a = if base ≤ a ∧ a < base + bs.length then bs[a - base]? else m.read a := by
  induction bs generalizing m base with
  | nil =>
    have : ¬ (base ≤ a ∧ a < base + ([] : List Byte).length) := by simp
    rw [if_neg this]; rfl
  | cons b bs ih =>
    rw [Memory.writeAll, ih]
    by_cases h : a = base
    · subst h
      simp [Memory.read_write_same]
    · rw [Memory.read_write_other m b h]
      by_cases h2 : base + 1 ≤ a ∧ a < base + 1 + bs.length
      · have h3 : base ≤ a ∧ a < base + (b :: bs).length := by simp; omega
        rw [if_pos h2, if_pos h3]
        have : a - base = (a - (base + 1)) + 1 := by omega
        rw [this, List.getElem?_cons_succ]
      · have h3 : ¬ (base ≤ a ∧ a < base + (b :: bs).length) := by simp; omega
        rw [if_neg h2, if_neg h3]

theorem Memory.wf_writeAll (bs : List Byte) (m : Memory) (base : Nat) (h : m.wf = true) :
    (m.writeAll base bs).wf = true := by
  induction bs generalizing m base with
  | nil => exact h
  | cons b bs ih => exact ih _ _ (Memory.wf_write m base b h)

theorem Memory.below_writeAll (cap : Nat) (bs : List Byte) (m : Memory) (base : Nat) (hb : base + bs.length ≤ cap)
    (h : m.below cap = true) : (m.writeAll base bs).below cap = true := by
  induction bs generalizing m base with
  | nil => exact h
  | cons b bs ih =>
    simp only [List.length_cons] at hb
    exact ih _ _ (by omega) (Memory.below_write cap m base b (by omega) h)

/-- The buffer at reset has the canonical form. -/
theorem State.reset_buf_wf : State.reset.buf.wf = true := rfl

/-! ### The register file -/

@[simp] theorem RegFile.get_set_same (r : RegFile) (k : Fin 3) (v : Target) : (r.set k v).get k = v := by
  match k with
  | 0 => rfl
  | 1 => rfl
  | 2 => rfl

theorem RegFile.get_set_other (r : RegFile) {k j : Fin 3} (v : Target) (h : j ≠ k) : (r.set k v).get j = r.get j := by
  match k, j with
  | 0, 0 => exact absurd rfl h
  | 0, 1 => rfl
  | 0, 2 => rfl
  | 1, 0 => rfl
  | 1, 1 => exact absurd rfl h
  | 1, 2 => rfl
  | 2, 0 => rfl
  | 2, 1 => rfl
  | 2, 2 => exact absurd rfl h

/-- Two register files are equal when their slots are. -/
theorem RegFile.ext_get {r q : RegFile} (h : ∀ k, r.get k = q.get k) : r = q := by
  cases r; cases q
  have h0 := h 0
  have h1 := h 1
  have h2 := h 2
  simp only [RegFile.get] at h0 h1 h2
  simp [h0, h1, h2]

end Sys2Proof.Machine
end

