-- ==== Sys2Proof/Laws/State.lean ====
section
/-! SUPPORT. One lemma per field per update of the state: what the update writes there, or that it leaves it alone. -/

namespace Sys2Proof.Machine

/-! ### setTgt -/

@[simp] theorem State.setTgt_cap (v : RegFile) (s : State) : (s.setTgt v).cap = s.cap := rfl
@[simp] theorem State.setTgt_tgt (v : RegFile) (s : State) : (s.setTgt v).tgt = v := rfl
@[simp] theorem State.setTgt_started (v : RegFile) (s : State) : (s.setTgt v).started = s.started := rfl
@[simp] theorem State.setTgt_bitrate (v : RegFile) (s : State) : (s.setTgt v).bitrate = s.bitrate := rfl
@[simp] theorem State.setTgt_buf (v : RegFile) (s : State) : (s.setTgt v).buf = s.buf := rfl
@[simp] theorem State.setTgt_len (v : RegFile) (s : State) : (s.setTgt v).len = s.len := rfl
@[simp] theorem State.setTgt_i (v : RegFile) (s : State) : (s.setTgt v).i = s.i := rfl
@[simp] theorem State.setTgt_seq (v : RegFile) (s : State) : (s.setTgt v).seq = s.seq := rfl
@[simp] theorem State.setTgt_rx (v : RegFile) (s : State) : (s.setTgt v).rx = s.rx := rfl
@[simp] theorem State.setTgt_tail (v : RegFile) (s : State) : (s.setTgt v).tail = s.tail := rfl
@[simp] theorem State.setTgt_result (v : RegFile) (s : State) : (s.setTgt v).result = s.result := rfl
@[simp] theorem State.setTgt_pending (v : RegFile) (s : State) : (s.setTgt v).pending = s.pending := rfl
@[simp] theorem State.setTgt_serial (v : RegFile) (s : State) : (s.setTgt v).serial = s.serial := rfl
@[simp] theorem State.setTgt_draws (v : RegFile) (s : State) : (s.setTgt v).draws = s.draws := rfl

/-! ### setStarted -/

@[simp] theorem State.setStarted_cap (v : Bool) (s : State) : (s.setStarted v).cap = s.cap := rfl
@[simp] theorem State.setStarted_tgt (v : Bool) (s : State) : (s.setStarted v).tgt = s.tgt := rfl
@[simp] theorem State.setStarted_started (v : Bool) (s : State) : (s.setStarted v).started = v := rfl
@[simp] theorem State.setStarted_bitrate (v : Bool) (s : State) : (s.setStarted v).bitrate = s.bitrate := rfl
@[simp] theorem State.setStarted_buf (v : Bool) (s : State) : (s.setStarted v).buf = s.buf := rfl
@[simp] theorem State.setStarted_len (v : Bool) (s : State) : (s.setStarted v).len = s.len := rfl
@[simp] theorem State.setStarted_i (v : Bool) (s : State) : (s.setStarted v).i = s.i := rfl
@[simp] theorem State.setStarted_seq (v : Bool) (s : State) : (s.setStarted v).seq = s.seq := rfl
@[simp] theorem State.setStarted_rx (v : Bool) (s : State) : (s.setStarted v).rx = s.rx := rfl
@[simp] theorem State.setStarted_tail (v : Bool) (s : State) : (s.setStarted v).tail = s.tail := rfl
@[simp] theorem State.setStarted_result (v : Bool) (s : State) : (s.setStarted v).result = s.result := rfl
@[simp] theorem State.setStarted_pending (v : Bool) (s : State) : (s.setStarted v).pending = s.pending := rfl
@[simp] theorem State.setStarted_serial (v : Bool) (s : State) : (s.setStarted v).serial = s.serial := rfl
@[simp] theorem State.setStarted_draws (v : Bool) (s : State) : (s.setStarted v).draws = s.draws := rfl

/-! ### setBitrate -/

@[simp] theorem State.setBitrate_cap (v : Int) (s : State) : (s.setBitrate v).cap = s.cap := rfl
@[simp] theorem State.setBitrate_tgt (v : Int) (s : State) : (s.setBitrate v).tgt = s.tgt := rfl
@[simp] theorem State.setBitrate_started (v : Int) (s : State) : (s.setBitrate v).started = s.started := rfl
@[simp] theorem State.setBitrate_bitrate (v : Int) (s : State) : (s.setBitrate v).bitrate = v := rfl
@[simp] theorem State.setBitrate_buf (v : Int) (s : State) : (s.setBitrate v).buf = s.buf := rfl
@[simp] theorem State.setBitrate_len (v : Int) (s : State) : (s.setBitrate v).len = s.len := rfl
@[simp] theorem State.setBitrate_i (v : Int) (s : State) : (s.setBitrate v).i = s.i := rfl
@[simp] theorem State.setBitrate_seq (v : Int) (s : State) : (s.setBitrate v).seq = s.seq := rfl
@[simp] theorem State.setBitrate_rx (v : Int) (s : State) : (s.setBitrate v).rx = s.rx := rfl
@[simp] theorem State.setBitrate_tail (v : Int) (s : State) : (s.setBitrate v).tail = s.tail := rfl
@[simp] theorem State.setBitrate_result (v : Int) (s : State) : (s.setBitrate v).result = s.result := rfl
@[simp] theorem State.setBitrate_pending (v : Int) (s : State) : (s.setBitrate v).pending = s.pending := rfl
@[simp] theorem State.setBitrate_serial (v : Int) (s : State) : (s.setBitrate v).serial = s.serial := rfl
@[simp] theorem State.setBitrate_draws (v : Int) (s : State) : (s.setBitrate v).draws = s.draws := rfl

/-! ### setBuf -/

@[simp] theorem State.setBuf_cap (v : Memory) (s : State) : (s.setBuf v).cap = s.cap := rfl
@[simp] theorem State.setBuf_tgt (v : Memory) (s : State) : (s.setBuf v).tgt = s.tgt := rfl
@[simp] theorem State.setBuf_started (v : Memory) (s : State) : (s.setBuf v).started = s.started := rfl
@[simp] theorem State.setBuf_bitrate (v : Memory) (s : State) : (s.setBuf v).bitrate = s.bitrate := rfl
@[simp] theorem State.setBuf_buf (v : Memory) (s : State) : (s.setBuf v).buf = v := rfl
@[simp] theorem State.setBuf_len (v : Memory) (s : State) : (s.setBuf v).len = s.len := rfl
@[simp] theorem State.setBuf_i (v : Memory) (s : State) : (s.setBuf v).i = s.i := rfl
@[simp] theorem State.setBuf_seq (v : Memory) (s : State) : (s.setBuf v).seq = s.seq := rfl
@[simp] theorem State.setBuf_rx (v : Memory) (s : State) : (s.setBuf v).rx = s.rx := rfl
@[simp] theorem State.setBuf_tail (v : Memory) (s : State) : (s.setBuf v).tail = s.tail := rfl
@[simp] theorem State.setBuf_result (v : Memory) (s : State) : (s.setBuf v).result = s.result := rfl
@[simp] theorem State.setBuf_pending (v : Memory) (s : State) : (s.setBuf v).pending = s.pending := rfl
@[simp] theorem State.setBuf_serial (v : Memory) (s : State) : (s.setBuf v).serial = s.serial := rfl
@[simp] theorem State.setBuf_draws (v : Memory) (s : State) : (s.setBuf v).draws = s.draws := rfl

/-! ### setLen -/

@[simp] theorem State.setLen_cap (v : Nat) (s : State) : (s.setLen v).cap = s.cap := rfl
@[simp] theorem State.setLen_tgt (v : Nat) (s : State) : (s.setLen v).tgt = s.tgt := rfl
@[simp] theorem State.setLen_started (v : Nat) (s : State) : (s.setLen v).started = s.started := rfl
@[simp] theorem State.setLen_bitrate (v : Nat) (s : State) : (s.setLen v).bitrate = s.bitrate := rfl
@[simp] theorem State.setLen_buf (v : Nat) (s : State) : (s.setLen v).buf = s.buf := rfl
@[simp] theorem State.setLen_len (v : Nat) (s : State) : (s.setLen v).len = v := rfl
@[simp] theorem State.setLen_i (v : Nat) (s : State) : (s.setLen v).i = s.i := rfl
@[simp] theorem State.setLen_seq (v : Nat) (s : State) : (s.setLen v).seq = s.seq := rfl
@[simp] theorem State.setLen_rx (v : Nat) (s : State) : (s.setLen v).rx = s.rx := rfl
@[simp] theorem State.setLen_tail (v : Nat) (s : State) : (s.setLen v).tail = s.tail := rfl
@[simp] theorem State.setLen_result (v : Nat) (s : State) : (s.setLen v).result = s.result := rfl
@[simp] theorem State.setLen_pending (v : Nat) (s : State) : (s.setLen v).pending = s.pending := rfl
@[simp] theorem State.setLen_serial (v : Nat) (s : State) : (s.setLen v).serial = s.serial := rfl
@[simp] theorem State.setLen_draws (v : Nat) (s : State) : (s.setLen v).draws = s.draws := rfl

/-! ### setI -/

@[simp] theorem State.setI_cap (v : Nat) (s : State) : (s.setI v).cap = s.cap := rfl
@[simp] theorem State.setI_tgt (v : Nat) (s : State) : (s.setI v).tgt = s.tgt := rfl
@[simp] theorem State.setI_started (v : Nat) (s : State) : (s.setI v).started = s.started := rfl
@[simp] theorem State.setI_bitrate (v : Nat) (s : State) : (s.setI v).bitrate = s.bitrate := rfl
@[simp] theorem State.setI_buf (v : Nat) (s : State) : (s.setI v).buf = s.buf := rfl
@[simp] theorem State.setI_len (v : Nat) (s : State) : (s.setI v).len = s.len := rfl
@[simp] theorem State.setI_i (v : Nat) (s : State) : (s.setI v).i = v := rfl
@[simp] theorem State.setI_seq (v : Nat) (s : State) : (s.setI v).seq = s.seq := rfl
@[simp] theorem State.setI_rx (v : Nat) (s : State) : (s.setI v).rx = s.rx := rfl
@[simp] theorem State.setI_tail (v : Nat) (s : State) : (s.setI v).tail = s.tail := rfl
@[simp] theorem State.setI_result (v : Nat) (s : State) : (s.setI v).result = s.result := rfl
@[simp] theorem State.setI_pending (v : Nat) (s : State) : (s.setI v).pending = s.pending := rfl
@[simp] theorem State.setI_serial (v : Nat) (s : State) : (s.setI v).serial = s.serial := rfl
@[simp] theorem State.setI_draws (v : Nat) (s : State) : (s.setI v).draws = s.draws := rfl

/-! ### setSeq -/

@[simp] theorem State.setSeq_cap (v : Seq) (s : State) : (s.setSeq v).cap = s.cap := rfl
@[simp] theorem State.setSeq_tgt (v : Seq) (s : State) : (s.setSeq v).tgt = s.tgt := rfl
@[simp] theorem State.setSeq_started (v : Seq) (s : State) : (s.setSeq v).started = s.started := rfl
@[simp] theorem State.setSeq_bitrate (v : Seq) (s : State) : (s.setSeq v).bitrate = s.bitrate := rfl
@[simp] theorem State.setSeq_buf (v : Seq) (s : State) : (s.setSeq v).buf = s.buf := rfl
@[simp] theorem State.setSeq_len (v : Seq) (s : State) : (s.setSeq v).len = s.len := rfl
@[simp] theorem State.setSeq_i (v : Seq) (s : State) : (s.setSeq v).i = s.i := rfl
@[simp] theorem State.setSeq_seq (v : Seq) (s : State) : (s.setSeq v).seq = v := rfl
@[simp] theorem State.setSeq_rx (v : Seq) (s : State) : (s.setSeq v).rx = s.rx := rfl
@[simp] theorem State.setSeq_tail (v : Seq) (s : State) : (s.setSeq v).tail = s.tail := rfl
@[simp] theorem State.setSeq_result (v : Seq) (s : State) : (s.setSeq v).result = s.result := rfl
@[simp] theorem State.setSeq_pending (v : Seq) (s : State) : (s.setSeq v).pending = s.pending := rfl
@[simp] theorem State.setSeq_serial (v : Seq) (s : State) : (s.setSeq v).serial = s.serial := rfl
@[simp] theorem State.setSeq_draws (v : Seq) (s : State) : (s.setSeq v).draws = s.draws := rfl

/-! ### setResult -/

@[simp] theorem State.setResult_cap (v : Result) (s : State) : (s.setResult v).cap = s.cap := rfl
@[simp] theorem State.setResult_tgt (v : Result) (s : State) : (s.setResult v).tgt = s.tgt := rfl
@[simp] theorem State.setResult_started (v : Result) (s : State) : (s.setResult v).started = s.started := rfl
@[simp] theorem State.setResult_bitrate (v : Result) (s : State) : (s.setResult v).bitrate = s.bitrate := rfl
@[simp] theorem State.setResult_buf (v : Result) (s : State) : (s.setResult v).buf = s.buf := rfl
@[simp] theorem State.setResult_len (v : Result) (s : State) : (s.setResult v).len = s.len := rfl
@[simp] theorem State.setResult_i (v : Result) (s : State) : (s.setResult v).i = s.i := rfl
@[simp] theorem State.setResult_seq (v : Result) (s : State) : (s.setResult v).seq = s.seq := rfl
@[simp] theorem State.setResult_rx (v : Result) (s : State) : (s.setResult v).rx = s.rx := rfl
@[simp] theorem State.setResult_tail (v : Result) (s : State) : (s.setResult v).tail = s.tail := rfl
@[simp] theorem State.setResult_result (v : Result) (s : State) : (s.setResult v).result = v := rfl
@[simp] theorem State.setResult_pending (v : Result) (s : State) : (s.setResult v).pending = s.pending := rfl
@[simp] theorem State.setResult_serial (v : Result) (s : State) : (s.setResult v).serial = s.serial := rfl
@[simp] theorem State.setResult_draws (v : Result) (s : State) : (s.setResult v).draws = s.draws := rfl

/-! ### setPending -/

@[simp] theorem State.setPending_cap (v : List Request) (s : State) : (s.setPending v).cap = s.cap := rfl
@[simp] theorem State.setPending_tgt (v : List Request) (s : State) : (s.setPending v).tgt = s.tgt := rfl
@[simp] theorem State.setPending_started (v : List Request) (s : State) : (s.setPending v).started = s.started := rfl
@[simp] theorem State.setPending_bitrate (v : List Request) (s : State) : (s.setPending v).bitrate = s.bitrate := rfl
@[simp] theorem State.setPending_buf (v : List Request) (s : State) : (s.setPending v).buf = s.buf := rfl
@[simp] theorem State.setPending_len (v : List Request) (s : State) : (s.setPending v).len = s.len := rfl
@[simp] theorem State.setPending_i (v : List Request) (s : State) : (s.setPending v).i = s.i := rfl
@[simp] theorem State.setPending_seq (v : List Request) (s : State) : (s.setPending v).seq = s.seq := rfl
@[simp] theorem State.setPending_rx (v : List Request) (s : State) : (s.setPending v).rx = s.rx := rfl
@[simp] theorem State.setPending_tail (v : List Request) (s : State) : (s.setPending v).tail = s.tail := rfl
@[simp] theorem State.setPending_result (v : List Request) (s : State) : (s.setPending v).result = s.result := rfl
@[simp] theorem State.setPending_pending (v : List Request) (s : State) : (s.setPending v).pending = v := rfl
@[simp] theorem State.setPending_serial (v : List Request) (s : State) : (s.setPending v).serial = s.serial := rfl
@[simp] theorem State.setPending_draws (v : List Request) (s : State) : (s.setPending v).draws = s.draws := rfl

/-! ### setInput -/

@[simp] theorem State.setInput_cap (r : List Byte) (t : List (Nat × Byte)) (s : State) : (s.setInput r t).cap = s.cap := rfl
@[simp] theorem State.setInput_tgt (r : List Byte) (t : List (Nat × Byte)) (s : State) : (s.setInput r t).tgt = s.tgt := rfl
@[simp] theorem State.setInput_started (r : List Byte) (t : List (Nat × Byte)) (s : State) : (s.setInput r t).started = s.started := rfl
@[simp] theorem State.setInput_bitrate (r : List Byte) (t : List (Nat × Byte)) (s : State) : (s.setInput r t).bitrate = s.bitrate := rfl
@[simp] theorem State.setInput_buf (r : List Byte) (t : List (Nat × Byte)) (s : State) : (s.setInput r t).buf = s.buf := rfl
@[simp] theorem State.setInput_len (r : List Byte) (t : List (Nat × Byte)) (s : State) : (s.setInput r t).len = s.len := rfl
@[simp] theorem State.setInput_i (r : List Byte) (t : List (Nat × Byte)) (s : State) : (s.setInput r t).i = s.i := rfl
@[simp] theorem State.setInput_seq (r : List Byte) (t : List (Nat × Byte)) (s : State) : (s.setInput r t).seq = s.seq := rfl
@[simp] theorem State.setInput_rx (r : List Byte) (t : List (Nat × Byte)) (s : State) : (s.setInput r t).rx = r := rfl
@[simp] theorem State.setInput_tail (r : List Byte) (t : List (Nat × Byte)) (s : State) : (s.setInput r t).tail = t := rfl
@[simp] theorem State.setInput_result (r : List Byte) (t : List (Nat × Byte)) (s : State) : (s.setInput r t).result = s.result := rfl
@[simp] theorem State.setInput_pending (r : List Byte) (t : List (Nat × Byte)) (s : State) : (s.setInput r t).pending = s.pending := rfl
@[simp] theorem State.setInput_serial (r : List Byte) (t : List (Nat × Byte)) (s : State) : (s.setInput r t).serial = s.serial := rfl
@[simp] theorem State.setInput_draws (r : List Byte) (t : List (Nat × Byte)) (s : State) : (s.setInput r t).draws = s.draws := rfl

/-! ### recWr -/

@[simp] theorem recWr_cap (k : Fin 3) (v : Target) (s : State) : (recWr k v s).cap = s.cap := rfl
@[simp] theorem recWr_tgt (k : Fin 3) (v : Target) (s : State) : (recWr k v s).tgt = s.tgt.set k v := rfl
@[simp] theorem recWr_started (k : Fin 3) (v : Target) (s : State) : (recWr k v s).started = s.started := rfl
@[simp] theorem recWr_bitrate (k : Fin 3) (v : Target) (s : State) : (recWr k v s).bitrate = s.bitrate := rfl
@[simp] theorem recWr_buf (k : Fin 3) (v : Target) (s : State) : (recWr k v s).buf = s.buf := rfl
@[simp] theorem recWr_len (k : Fin 3) (v : Target) (s : State) : (recWr k v s).len = s.len := rfl
@[simp] theorem recWr_i (k : Fin 3) (v : Target) (s : State) : (recWr k v s).i = s.i := rfl
@[simp] theorem recWr_seq (k : Fin 3) (v : Target) (s : State) : (recWr k v s).seq = s.seq := rfl
@[simp] theorem recWr_rx (k : Fin 3) (v : Target) (s : State) : (recWr k v s).rx = s.rx := rfl
@[simp] theorem recWr_tail (k : Fin 3) (v : Target) (s : State) : (recWr k v s).tail = s.tail := rfl
@[simp] theorem recWr_result (k : Fin 3) (v : Target) (s : State) : (recWr k v s).result = s.result := rfl
@[simp] theorem recWr_pending (k : Fin 3) (v : Target) (s : State) : (recWr k v s).pending = s.pending := rfl
@[simp] theorem recWr_serial (k : Fin 3) (v : Target) (s : State) : (recWr k v s).serial = s.serial := rfl
@[simp] theorem recWr_draws (k : Fin 3) (v : Target) (s : State) : (recWr k v s).draws = s.draws := rfl

/-! ### accept -/

@[simp] theorem accept_cap (s : State) : (accept s).cap = s.cap := rfl
@[simp] theorem accept_tgt (s : State) : (accept s).tgt = s.tgt := rfl
@[simp] theorem accept_started (s : State) : (accept s).started = s.started := rfl
@[simp] theorem accept_bitrate (s : State) : (accept s).bitrate = s.bitrate := rfl
@[simp] theorem accept_buf (s : State) : (accept s).buf = s.buf := rfl
@[simp] theorem accept_len (s : State) : (accept s).len = s.len := rfl
@[simp] theorem accept_i (s : State) : (accept s).i = s.i := rfl
@[simp] theorem accept_seq (s : State) : (accept s).seq = .fill := rfl
@[simp] theorem accept_rx (s : State) : (accept s).rx = nextRx s := rfl
@[simp] theorem accept_tail (s : State) : (accept s).tail = (nextInput s).tail := rfl
@[simp] theorem accept_result (s : State) : (accept s).result = s.result := rfl
@[simp] theorem accept_pending (s : State) : (accept s).pending = s.pending := rfl
@[simp] theorem accept_serial (s : State) : (accept s).serial = s.serial.tail := rfl
@[simp] theorem accept_draws (s : State) : (accept s).draws = s.draws + 1 := rfl

/-! ### applyReset -/

@[simp] theorem State.applyReset_cap (s : State) : s.applyReset.cap = s.cap := rfl
@[simp] theorem State.applyReset_tgt (s : State) : s.applyReset.tgt = .zero := rfl
@[simp] theorem State.applyReset_started (s : State) : s.applyReset.started = false := rfl
@[simp] theorem State.applyReset_bitrate (s : State) : s.applyReset.bitrate = 0 := rfl
@[simp] theorem State.applyReset_buf (s : State) : s.applyReset.buf = [] := rfl
@[simp] theorem State.applyReset_len (s : State) : s.applyReset.len = 0 := rfl
@[simp] theorem State.applyReset_i (s : State) : s.applyReset.i = 0 := rfl
@[simp] theorem State.applyReset_seq (s : State) : s.applyReset.seq = .idle := rfl
@[simp] theorem State.applyReset_rx (s : State) : s.applyReset.rx = [] := rfl
@[simp] theorem State.applyReset_tail (s : State) : s.applyReset.tail = [] := rfl
@[simp] theorem State.applyReset_result (s : State) : s.applyReset.result = .nothing := rfl
@[simp] theorem State.applyReset_pending (s : State) : s.applyReset.pending = s.pending := rfl
@[simp] theorem State.applyReset_serial (s : State) : s.applyReset.serial = s.serial := rfl
@[simp] theorem State.applyReset_draws (s : State) : s.applyReset.draws = s.draws := rfl

end Sys2Proof.Machine
end

