-- ==== Sys2Proof/Laws/FrameSync.lean ====
section
/-! SUPPORT. What the operations of a REFRESH can do, said once per operation. -/

namespace Sys2Proof.Machine

/-! ### Buffer reads -/

/-- Reads depend on the buffer, the filled length, the listed tail and the draw, and on nothing else. -/
theorem bufByte_congr {s t : State} (hb : s.buf = t.buf) (hl : s.len = t.len) (ht : s.tail = t.tail)
    (hd : s.draws = t.draws) (j : Nat) : bufByte s j = bufByte t j := by
  simp only [bufByte, tailByte, hb, hl, ht, hd]

theorem bufHalf_congr {s t : State} (hb : s.buf = t.buf) (hl : s.len = t.len) (ht : s.tail = t.tail)
    (hd : s.draws = t.draws) (j : Nat) : bufHalf s j = bufHalf t j := by
  simp only [bufHalf, bufByte_congr hb hl ht hd]

theorem recordAt_congr {s t : State} (hb : s.buf = t.buf) (hl : s.len = t.len) (ht : s.tail = t.tail)
    (hd : s.draws = t.draws) (o : Nat) : recordAt s o = recordAt t o := by
  simp only [recordAt, bufHalf_congr hb hl ht hd]

theorem payloadAt_congr {s t : State} (hb : s.buf = t.buf) (hl : s.len = t.len) (ht : s.tail = t.tail)
    (hd : s.draws = t.draws) (i : Nat) : payloadAt s i = payloadAt t i := by
  simp only [payloadAt, recordAt_congr hb hl ht hd]

theorem sig_congr {s t : State} (hb : s.buf = t.buf) (hl : s.len = t.len) (ht : s.tail = t.tail)
    (hd : s.draws = t.draws) (i : Nat) : sig s i = sig t i := by
  simp only [sig, hdrCmp, ftrCmp, bufByte_congr hb hl ht hd]

/-- A position below LEN that a fill has written reads as the byte written (20_memory.md R33). -/
theorem bufByte_of_read {s : State} {j : Nat} {b : Byte} (hl : j < s.len) (hr : s.buf.read j = some b) :
    bufByte s j = b := by
  simp only [bufByte, hl, if_true, hr]

/-- A position at or beyond LEN reads as the tail (20_memory.md R33). -/
theorem bufByte_of_le {s : State} {j : Nat} (hl : s.len ≤ j) : bufByte s j = tailByte s j := by
  simp only [bufByte, Nat.not_lt.mpr hl, if_false]

@[simp] theorem window_length (s : State) (j n : Nat) : (window s j n).length = n := by
  induction n generalizing j with
  | zero => rfl
  | succ n ih => simp only [window, List.length_cons, ih]

/-! ### A match -/

/-- A record step changes the register file only, and only slot `k` of it. -/
theorem writeRecord_eq (p : Payload) (k : Fin 3) (s : State) :
    writeRecord p k s =
      s.setTgt (if recFit s.i k s.len then s.tgt.set k (recDec (recordOf p k)) else s.tgt) := by
  unfold writeRecord recWr
  by_cases h : recFit s.i k s.len <;> simp [h, State.setTgt]

/-- What a match makes of the register file. -/
def matchTgt (p : Payload) (i len : Nat) (r : RegFile) : RegFile :=
  let r0 := if recFit i 0 len then r.set 0 (recDec p.rec0) else r
  let r1 := if recFit i 1 len then r0.set 1 (recDec p.rec1) else r0
  if recFit i 2 len then r1.set 2 (recDec p.rec2) else r1

/-- Processing a match changes the register file and the scan index, and nothing else. -/
theorem processMatch_eq (p : Payload) (s : State) :
    processMatch p s = (s.setTgt (matchTgt p s.i s.len s.tgt)).setI (s.i + 30) := by
  simp only [processMatch, advanceMatch, writeRecord_eq, State.setTgt_i, State.setTgt_len, State.setTgt_tgt,
    recordOf, matchTgt]
  rfl

/-- Slot by slot: the record's decode where it fits, the old value elsewhere. -/
theorem matchTgt_get (p : Payload) (i len : Nat) (r : RegFile) (k : Fin 3) :
    (matchTgt p i len r).get k = if recFit i k len then recDec (recordOf p k) else r.get k := by
  unfold matchTgt
  match k with
  | 0 =>
    simp only [recordOf]
    split <;> split <;> split <;> simp_all [RegFile.get, RegFile.set]
  | 1 =>
    simp only [recordOf]
    split <;> split <;> split <;> simp_all [RegFile.get, RegFile.set]
  | 2 =>
    simp only [recordOf]
    split <;> split <;> split <;> simp_all [RegFile.get, RegFile.set]

/-! ### The scan -/

/-- A turn of the scan changes the register file and the scan index only, and the scan index grows. -/
theorem scanTurn_eq (s : State) : ∃ r j, s.i < j ∧ j ≤ s.i + 30 ∧ scanTurn s = (s.setTgt r).setI j := by
  unfold scanTurn
  split
  · exact ⟨_, s.i + 30, by omega, by omega, processMatch_eq _ _⟩
  · exact ⟨s.tgt, s.i + 1, by omega, by omega, rfl⟩

/-- The scan changes the register file and the scan index only. -/
theorem scanLoop_eq (n : Nat) (s : State) : ∃ r j, scanLoop n s = (s.setTgt r).setI j := by
  induction n generalizing s with
  | zero => exact ⟨s.tgt, s.i, rfl⟩
  | succ n ih =>
    unfold scanLoop
    split
    · obtain ⟨r, j, -, -, h⟩ := scanTurn_eq s
      obtain ⟨r', j', h'⟩ := ih (scanTurn s)
      exact ⟨r', j', by rw [h', h]; rfl⟩
    · exact ⟨s.tgt, s.i, rfl⟩

/-- The scan index leaves the filled region by at most 29 (10_state.md R17). -/
theorem scanLoop_i_le (n : Nat) (s : State) (h : s.i ≤ s.len + 29) : (scanLoop n s).i ≤ s.len + 29 := by
  induction n generalizing s with
  | zero => exact h
  | succ n ih =>
    unfold scanLoop
    split
    · obtain ⟨r, j, -, hj, he⟩ := scanTurn_eq s
      have hl : (scanTurn s).len = s.len := by rw [he]; rfl
      have hi : (scanTurn s).i = j := by rw [he]; rfl
      have := ih (scanTurn s) (by omega)
      omega
    · exact h

/-! ### The fill and the whole REFRESH -/

/-- After the fill, the buffer reads as `rx` below LEN and as before elsewhere (R71, 20_memory.md R34). -/
theorem fillBuf_read (s : State) (j : Nat) :
    (fillBuf s).buf.read j = if j < s.rx.length then s.rx[j]? else s.buf.read j := by
  have := Memory.read_writeAll s.rx s.buf 0 j
  simpa [fillBuf] using this

@[simp] theorem fillBuf_len (s : State) : (fillBuf s).len = s.rx.length := rfl
@[simp] theorem fillBuf_cap (s : State) : (fillBuf s).cap = s.cap := rfl

/-- `B(j)` after the fill (R33). -/
theorem fillBuf_bufByte (s : State) (j : Nat) :
    bufByte (fillBuf s) j = match s.rx[j]? with | some b => b | none => tailByte s j := by
  by_cases h : j < s.rx.length
  · have hr : (fillBuf s).buf.read j = some s.rx[j] := by simp [fillBuf_read, h]
    rw [bufByte_of_read (by simpa using h) hr]
    simp [h]
  · rw [bufByte_of_le (by simpa using h)]
    simp only [List.getElem?_eq_none (Nat.le_of_not_lt h)]
    rfl

@[simp] theorem nextRx_length_le (s : State) : (nextRx s).length ≤ s.cap := by
  simp [nextRx, List.length_take]

/-- What a REFRESH can do to the state: the register file, the buffer, LEN and I change as the scan says, the input is
consumed, the result is handed back, and nothing else changes (44_host_operations.md R142). -/
theorem runRefresh_eq (s : State) :
    ∃ r j, runRefresh s =
      { s with
        tgt := r
        buf := s.buf.writeAll 0 (nextRx s)
        len := (nextRx s).length
        i := j
        seq := .idle
        rx := []
        tail := []
        result := .bool (refreshResult (nextRx s).length)
        serial := s.serial.tail
        draws := s.draws + 1 } := by
  unfold runRefresh
  by_cases h : (nextRx s).length = 0
  · refine ⟨s.tgt, s.i, ?_⟩
    have h' : nextRx s = [] := List.length_eq_zero_iff.mp h
    simp only [accept_rx, h, if_true]
    simp [finish, State.setInput, State.setSeq, State.setResult, State.setLen, accept, h', Memory.writeAll]
  · obtain ⟨r, j, he⟩ := scanLoop_eq (nextRx s).length ((fillBuf (accept s)).setI 0)
    refine ⟨r, j, ?_⟩
    simp only [accept_rx, h, if_false, he]
    rfl

end Sys2Proof.Machine
end

