-- ==== Sys2Proof/Laws/PerInstr.lean ====
section
/-! SUPPORT. Statements about every instruction as an item of syntax, one lemma per constructor. -/

namespace Sys2Proof.Laws

/-- The encoder answers well-formed raw items only: a selector that names an operation, or as many bytes as the format has
(30_encoding.md R50, R60). -/
def EncodedShape.Statement (i : Instr) : Prop := (encode i).wf = true

theorem EncodedShape.dataReport (rec0 rec1 rec2 : RawRecord) :
    EncodedShape.Statement (.dataReport rec0 rec1 rec2) := rfl

theorem EncodedShape.record (raw : RawRecord) : EncodedShape.Statement (.record raw) := rfl

theorem EncodedShape.smField (raw : U16) : EncodedShape.Statement (.smField raw) := rfl

theorem EncodedShape.uField (raw : U16) : EncodedShape.Statement (.uField raw) := rfl

theorem EncodedShape.begin (bitrate : Int) : EncodedShape.Statement (.begin bitrate) := rfl

theorem EncodedShape.refresh : EncodedShape.Statement .refresh := rfl

theorem EncodedShape.getX (index : Int) : EncodedShape.Statement (.getX index) := rfl

theorem EncodedShape.getY (index : Int) : EncodedShape.Statement (.getY index) := rfl

theorem EncodedShape.getSpeed (index : Int) : EncodedShape.Statement (.getSpeed index) := rfl

theorem EncodedShape.getRes (index : Int) : EncodedShape.Statement (.getRes index) := rfl

end Sys2Proof.Laws
end

