-- ==== Sys2Proof/Laws/Step.lean ====
section
/-! SUPPORT. What one step can do, said once, and the equations of the dispatch. -/

namespace Sys2Proof.Machine

/-! ### The dispatch -/

theorem exec_dataReport (r0 r1 r2 : RawRecord) (s : State) :
    exec (.dataReport r0 r1 r2) s = .next ((processMatch ⟨r0, r1, r2⟩ s).setResult .nothing) := rfl

theorem exec_record (r : RawRecord) (s : State) : exec (.record r) s = .next (s.setResult (.target (recDec r))) := rfl

theorem exec_smField (r : U16) (s : State) : exec (.smField r) s = .next (s.setResult (.signed (smdec r))) := rfl

theorem exec_uField (r : U16) (s : State) : exec (.uField r) s = .next (s.setResult (.unsigned (udec r))) := rfl

theorem exec_begin (b : Int) (s : State) :
    exec (.begin b) s = .next (((s.setBitrate b).setStarted true).setResult .nothing) := rfl

theorem exec_refresh_started {s : State} (h : s.started = true) :
    exec .refresh s = .next (runRefresh s) := by
  simp only [exec, execRefresh, h, if_true]

theorem exec_getX (k : Int) (s : State) : exec (.getX k) s = readSlot k (fun t => .signed t.x) s := rfl

theorem exec_getY (k : Int) (s : State) : exec (.getY k) s = readSlot k (fun t => .signed t.y) s := rfl

theorem exec_getSpeed (k : Int) (s : State) : exec (.getSpeed k) s = readSlot k (fun t => .signed t.speed) s := rfl

theorem exec_getRes (k : Int) (s : State) : exec (.getRes k) s = readSlot k (fun t => .unsigned t.resolution) s := rfl

/-! ### Which items a request can yield -/

/-- The 30-byte window at an offset decodes as a frame exactly when the signature test holds there, and its records are those
behind the header (40_frame_sync.md R75, R76). -/
theorem decode_window (s : State) (i : Nat) :
    decode (.wire .frame30 (window s i 30)) =
      if sig s i then
        .ok (.dataReport (payloadAt s i).rec0 (payloadAt s i).rec1 (payloadAt s i).rec2)
      else .error .notAFrame := by
  have hw : window s i 30 = (List.range 30).map (fun j => bufByte s (i + j)) := by
    simp [window, List.range_succ]
  rw [hw]
  simp [decode, decodeFrame, decodePayload, decodeRecord, Wire.header, Wire.footer, sig, hdrCmp, ftrCmp,
    payloadAt, recOff, recordAt, bufHalf, List.range_succ, and_assoc, Nat.add_assoc]

theorem decode_record_window (s : State) (o : Nat) :
    decode (.wire .rec8 (window s o 8)) = .ok (.record (recordAt s o)) := rfl

theorem decode_field_window (s : State) (o : Nat) (f : Field) :
    decode (.wire f.format (window s o 2)) =
      .ok (match f with
        | .x => .smField (bufHalf s o)
        | .y => .smField (bufHalf s o)
        | .speed => .smField (bufHalf s o)
        | .resolution => .uField (bufHalf s o)) := by
  cases f <;> rfl

/-- A host request decodes to a host operation, or is refused for its selector. -/
theorem decode_host (op : BitVec 3) (arg : Int) :
    (∃ h : HostOp, decodeHost op arg = .ok h ∧ decode (.host op arg) = .ok h.toInstr) ∨
    (6 ≤ op.toNat ∧ decode (.host op arg) = .error (.noOperation op)) := by
  match op with
  | 0 => exact .inl ⟨_, rfl, rfl⟩
  | 1 => exact .inl ⟨_, rfl, rfl⟩
  | 2 => exact .inl ⟨_, rfl, rfl⟩
  | 3 => exact .inl ⟨_, rfl, rfl⟩
  | 4 => exact .inl ⟨_, rfl, rfl⟩
  | 5 => exact .inl ⟨_, rfl, rfl⟩
  | 6 => exact .inr ⟨by decide, rfl⟩
  | 7 => exact .inr ⟨by decide, rfl⟩

/-! ### The step -/

/-- Everything a request can lead to (R82 for a turn of the scan, R105, R103, R104 for the extractors, R180 for reset). -/
theorem runRequest_cases (r : Request) (s : State) :
    (∃ op arg h, r = .host op arg ∧ decodeHost op arg = .ok h ∧ runRequest r s = exec h.toInstr s) ∨
    (∃ op arg, r = .host op arg ∧ 6 ≤ op.toNat ∧ runRequest r s = .refused (.undecodable (.noOperation op))) ∨
    (r = .reset ∧ runRequest r s = .next s.applyReset) ∨
    (r = .scan ∧ s.i < s.len ∧ sig s s.i = true ∧
      runRequest r s = .next ((processMatch (payloadAt s s.i) s).setResult .nothing)) ∨
    (r = .scan ∧ s.i < s.len ∧ sig s s.i = false ∧ runRequest r s = .next ((advance1 s).setResult .nothing)) ∨
    ((r = .scan ∨ (∃ k, r = .record k) ∨ ∃ k f, r = .field k f) ∧ ∃ v : Result, v.errorCode = 0 ∧
      runRequest r s = .next (s.setResult v)) := by
  cases r with
  | host op arg =>
    rcases decode_host op arg with ⟨h, h1, h2⟩ | ⟨h1, h2⟩
    · exact .inl ⟨op, arg, h, rfl, h1, by simp only [runRequest, fetch, h2]⟩
    · exact .inr (.inl ⟨op, arg, rfl, h1, by simp only [runRequest, fetch, h2, rejected]⟩)
  | reset => exact .inr (.inr (.inl ⟨rfl, rfl⟩))
  | scan =>
    by_cases hi : s.i < s.len
    · cases hs : sig s s.i with
      | true =>
        refine .inr (.inr (.inr (.inl ⟨rfl, hi, rfl, ?_⟩)))
        simp only [runRequest, fetch, hi, if_true, decode_window, hs]
        rfl
      | false =>
        refine .inr (.inr (.inr (.inr (.inl ⟨rfl, hi, rfl, ?_⟩))))
        simp only [runRequest, fetch, hi, if_true, decode_window, hs, Bool.false_eq_true, if_false]
        rfl
    · exact .inr (.inr (.inr (.inr (.inr ⟨.inl rfl, .nothing, rfl, by simp only [runRequest, fetch, hi, if_false, noItem]⟩))))
  | record k =>
    refine .inr (.inr (.inr (.inr (.inr ⟨.inr (.inl ⟨k, rfl⟩), ?_⟩))))
    cases hf : recFit s.i k s.len with
    | true =>
      refine ⟨.target (recDec (recordAt s (recOff s.i k))), rfl, ?_⟩
      simp only [runRequest, fetch, hf, if_true, decode_record_window]
      rfl
    | false => exact ⟨.nothing, rfl, by simp only [runRequest, fetch, hf, Bool.false_eq_true, if_false, noItem]⟩
  | field k f =>
    refine .inr (.inr (.inr (.inr (.inr ⟨.inr (.inr ⟨k, f, rfl⟩), ?_⟩))))
    cases hf : recFit s.i k s.len with
    | true =>
      cases f with
      | resolution =>
        exact ⟨.unsigned (bufHalf s (recOff s.i k + 6)), rfl, by
          simp only [runRequest, fetch, hf, if_true, decode_field_window, Field.offset]; rfl⟩
      | x =>
        exact ⟨.signed (smdec (bufHalf s (recOff s.i k + 0))), rfl, by
          simp only [runRequest, fetch, hf, if_true, decode_field_window, Field.offset]; rfl⟩
      | y =>
        exact ⟨.signed (smdec (bufHalf s (recOff s.i k + 2))), rfl, by
          simp only [runRequest, fetch, hf, if_true, decode_field_window, Field.offset]; rfl⟩
      | speed =>
        exact ⟨.signed (smdec (bufHalf s (recOff s.i k + 4))), rfl, by
          simp only [runRequest, fetch, hf, if_true, decode_field_window, Field.offset]; rfl⟩
    | false => exact ⟨.nothing, rfl, by simp only [runRequest, fetch, hf, Bool.false_eq_true, if_false, noItem]⟩

/-- Everything a step can be. -/
theorem step_cases (s : State) :
    (s.seq = .idle ∧ s.pending = [] ∧ step s = .next s) ∨
    (∃ r rest, s.seq = .idle ∧ s.pending = r :: rest ∧ step s = runRequest r (s.setPending rest)) ∨
    (s.seq ≠ .idle ∧ step s = .next (seqStep s)) := by
  unfold step
  split
  · rename_i h
    split
    · rename_i hp; exact .inl ⟨h, hp, rfl⟩
    · rename_i r rest hp; exact .inr (.inl ⟨r, rest, h, hp, rfl⟩)
  · rename_i h; exact .inr (.inr ⟨h, rfl⟩)

end Sys2Proof.Machine
end

