-- ==== Sys2Proof/Tests/Slice0.lean ====
section
/-! SUPPORT. The model's own tests: ill-formed items refused, words written out from the spec decoded, one step per instruction
against the vectors of 95_test_vectors.md, and a witness for the hypotheses of every statement. -/

namespace Sys2Proof.Tests

open Sys2Proof Sys2Proof.Machine Sys2Proof.Safety

/-! ### Data of 95_test_vectors.md -/

/-- Frame A. -/
def frameA : List Byte :=
  [0xAA, 0xFF, 0x03, 0x00] ++ [0x0E, 0x03, 0xB1, 0x86, 0x10, 0x00, 0x68, 0x01] ++
  [0x64, 0x80, 0xD0, 0x87, 0x00, 0x80, 0x40, 0x01] ++ [0x2C, 0x01, 0xC2, 0x81, 0x0C, 0x80, 0x68, 0x01] ++ [0x55, 0xCC]

/-- Frame B. -/
def frameB : List Byte :=
  [0xAA, 0xFF, 0x03, 0x00] ++ [0xD2, 0x84, 0x2E, 0x16, 0x19, 0x80, 0xFF, 0xFF] ++
  [0x01, 0x00, 0x01, 0x80, 0xFF, 0x7F, 0x01, 0x00] ++ [0xFF, 0xFF, 0xFF, 0x7F, 0x2C, 0x81, 0x40, 0x9C] ++ [0x55, 0xCC]

/-- The records of frame A, read off its bytes by hand. -/
def payloadA : Payload :=
  ⟨⟨0x030E, 0x86B1, 0x0010, 0x0168⟩, ⟨0x8064, 0x87D0, 0x8000, 0x0140⟩, ⟨0x012C, 0x81C2, 0x800C, 0x0168⟩⟩

/-- Frame A's slots, as the vectors give them. -/
def slotsA : RegFile :=
  ⟨⟨BitVec.ofInt 16 (-782), 1713, BitVec.ofInt 16 (-16), 360⟩, ⟨100, 2000, 0, 320⟩,
    ⟨BitVec.ofInt 16 (-300), 450, 12, 360⟩⟩

/-- Frame B's slots, as the vectors give them. -/
def slotsB : RegFile :=
  ⟨⟨1234, BitVec.ofInt 16 (-5678), 25, 65535⟩, ⟨BitVec.ofInt 16 (-1), 1, BitVec.ofInt 16 (-32767), 1⟩,
    ⟨32767, BitVec.ofInt 16 (-32767), 300, 40000⟩⟩

/-- Records whose third one starts with the four header bytes `AA FF 03 00`. -/
def payloadH : Payload := ⟨payloadA.rec0, payloadA.rec1, ⟨0xFFAA, 0x0003, 0x800C, 0x0168⟩⟩

/-- A frame with these records, and two bytes behind it. -/
def frameH : List Byte := encodeFrame payloadH ++ [0x00, 0x01]

/-- After BEGIN, with frame A's slots, and the serial source about to hand over `rx` and the listed `tail`. -/
def ready (rx : List Byte) (tail : List (Nat × Byte)) : State :=
  { State.reset with started := true, tgt := slotsA, serial := [⟨rx, tail⟩] }

/-- A buffer filled with `rx` and a request pending. -/
def filled (rx : List Byte) (i : Nat) (r : Request) : State :=
  { State.reset with started := true, tgt := slotsA, buf := Memory.writeAll [] 0 rx, len := rx.length, i := i, pending := [r] }

def tgtOf : Host.Outcome State Fault Refusal → Option RegFile
  | .next t => some t.tgt
  | .fault _ => none
  | .refused _ => none

def resultOf : Host.Outcome State Fault Refusal → Option Result
  | .next t => some t.result
  | .fault _ => none
  | .refused _ => none

/-! ### Well-formedness refuses an ill-formed item for each of its checks -/

theorem test_wf_selector_six : (RawItem.host 6 0).wf = false := by decide
theorem test_wf_selector_five : (RawItem.host 5 0).wf = true := by decide
theorem test_wf_short_frame : (RawItem.wire .frame30 (frameA.take 29)).wf = false := by decide
theorem test_wf_long_record : (RawItem.wire .rec8 (frameA.take 9)).wf = false := by decide
theorem test_wf_short_signed : (RawItem.wire .sm16 [0x00]).wf = false := by decide
theorem test_wf_empty_unsigned : (RawItem.wire .u16 []).wf = false := by decide
theorem test_wf_input_too_long : (RxInput.wf 80 ⟨List.replicate 81 0x00, []⟩) = false := by decide
theorem test_buffer_not_rising : Memory.wf [(3, 0x00), (3, 0x01)] = false := by decide

/-! ### Decoding, from bytes written out by hand from the encodings (30_encoding.md R51 to R55, R60) -/

theorem test_decode_dataReport :
    decode (.wire .frame30 frameA) = .ok (.dataReport payloadA.rec0 payloadA.rec1 payloadA.rec2) := by decide
theorem test_decode_record :
    decode (.wire .rec8 [0x0E, 0x03, 0xB1, 0x86, 0x10, 0x00, 0x68, 0x01]) =
      .ok (.record ⟨0b0000001100001110, 0b1000011010110001, 0b0000000000010000, 0b0000000101101000⟩) := by decide
theorem test_decode_smField : decode (.wire .sm16 [0x12, 0x34]) = .ok (.smField 0x3412) := by decide
theorem test_decode_uField : decode (.wire .u16 [0x40, 0x9C]) = .ok (.uField 40000) := by decide
theorem test_decode_begin : decode (.host 0b000 256000) = .ok (.begin 256000) := by decide
theorem test_decode_refresh : decode (.host 0b001 0) = .ok .refresh := by decide
theorem test_decode_getX : decode (.host 0b010 (-1)) = .ok (.getX (-1)) := by decide
theorem test_decode_getY : decode (.host 0b011 1) = .ok (.getY 1) := by decide
theorem test_decode_getSpeed : decode (.host 0b100 2) = .ok (.getSpeed 2) := by decide
theorem test_decode_getRes : decode (.host 0b101 255) = .ok (.getRes 255) := by decide
theorem test_decode_selector_seven : decode (.host 0b111 0) = .error (.noOperation 7) := by decide
/-- V23: the last footer byte `CC` changed to `CD`. -/
theorem test_decode_bad_footer : decode (.wire .frame30 (frameA.set 29 0xCD)) = .error .notAFrame := by decide
theorem test_decode_short_frame : decode (.wire .frame30 (frameA.take 29)) = .error (.badLength .frame30 29) := by decide

/-! ### Words of the opcode table -/

theorem test_table_record :
    decodeTableWord 64 0x0168001086B1030E = some (.record payloadA.rec0) := by decide
/-- The match of the row DATA_REPORT: `AA` is the byte at offset 0, so bits 7:0 (the model's numbering, log 22). -/
theorem test_table_dataReport :
    decodeTableWord 240 (0x0003FFAA + 0xCC55 * 2 ^ 224) =
      some (.dataReport ⟨0, 0, 0, 0⟩ ⟨0, 0, 0, 0⟩ ⟨0, 0, 0, 0⟩) := by decide
theorem test_table_host : decodeTableWord 8 4 = some (.getSpeed 0) := by decide
theorem test_table_selector_six : decodeTableWord 8 6 = none := by decide
theorem test_fetch_word_runs_smField :
    resultOf (step (State.reset.withFetchWord 16 0x8001)) = some (.signed 1) := by decide
theorem test_fetch_word_runs_dataReport :
    tgtOf (step (State.reset.withFetchWord 240 (0x0003FFAA + 0x0168 * 2 ^ 80 + 0xCC55 * 2 ^ 224))) =
      some ⟨⟨0, 0, 0, 360⟩, .zero, .zero⟩ := by decide
theorem test_fetch_word_runs_begin :
    (match step (State.reset.withFetchWord 8 0) with | .next t => t.started | _ => false) = true := by decide

/-! ### One step per instruction, against the vectors -/

/-- V22: leading noise, odd offsets, two frames; the second one's slots stay. -/
theorem test_refresh_noise_two_frames :
    tgtOf (exec .refresh (ready ([0x00, 0xAA, 0xFF, 0x12, 0x55] ++ frameA ++ frameB) [])) = some slotsB := by decide +kernel
/-- R31: a block of capacity 12 takes the first 12 bytes of frame B, so only record 0 fits. -/
theorem test_refresh_capacity_twelve :
    tgtOf (exec .refresh { ready frameB [(28, 0x55), (29, 0xCC)] with cap := 12 }) =
      some ⟨slotsB.slot0, slotsA.slot1, slotsA.slot2⟩ := by decide +kernel
/-- V24: 25 bytes of frame B and a footer supplied by the tail; slot 2 keeps frame A's record. -/
theorem test_refresh_truncated :
    tgtOf (exec .refresh (ready (frameB.take 25) [(28, 0x55), (29, 0xCC)])) =
      some ⟨slotsB.slot0, slotsB.slot1, slotsA.slot2⟩ := by decide +kernel
/-- V34. -/
theorem test_begin_keeps_slots :
    (match exec (.begin 115200) (ready [] []) with
      | .next t => decide (t.bitrate = 115200 ∧ t.started = true ∧ t.tgt = slotsA)
      | _ => false) = true := by decide
/-- V20, the match itself: 30 bytes filled, index 0. -/
theorem test_dataReport_whole_frame :
    (match step (filled frameA 0 .scan) with | .next t => decide (t.tgt = slotsA ∧ t.i = 30) | _ => false) = true := by
  decide +kernel
/-- V12: with LEN = 19 only record 0 fits. -/
theorem test_dataReport_one_fits :
    tgtOf (exec (.dataReport payloadA.rec0 payloadA.rec1 payloadA.rec2) { State.reset with len := 19 }) =
      some ⟨slotsA.slot0, .zero, .zero⟩ := by decide
/-- V10. -/
theorem test_record_v10 :
    resultOf (exec (.record payloadA.rec0) State.reset) = some (.target slotsA.slot0) := by decide
/-- V11: all ones. -/
theorem test_record_all_ones :
    resultOf (exec (.record ⟨0xFFFF, 0xFFFF, 0xFFFF, 0xFFFF⟩) State.reset) =
      some (.target ⟨32767, 32767, 32767, 65535⟩) := by decide
/-- V1: the most negative result. -/
theorem test_smField_most_negative :
    resultOf (exec (.smField 0x7FFF) State.reset) = some (.signed 0x8001) := by decide
/-- V4: the bytes `12 34` as a signed field. -/
theorem test_smField_byte_order :
    (resultOf (exec (.smField (le16 0x12 0x34)) State.reset)).bind Result.number = some (-13330) := by decide
/-- V3: bit 15 has no meaning in an unsigned field. -/
theorem test_uField_bit_fifteen :
    (resultOf (exec (.uField 0x8000) State.reset)).bind Result.number = some 32768 := by decide
/-- V31. -/
theorem test_getX_slot_one :
    (resultOf (exec (.getX 1) { State.reset with tgt := slotsB })).bind Result.number = some (-1) := by decide
/-- V32. -/
theorem test_getX_out_of_range : resultOf (exec (.getX 3) (ready [] [])) = some (.error (.rangeError 3)) := by decide
/-- V31. -/
theorem test_getY_slot_zero :
    (resultOf (exec (.getY 0) { State.reset with tgt := slotsB })).bind Result.number = some (-5678) := by decide
/-- V32. -/
theorem test_getY_negative : resultOf (exec (.getY (-1)) (ready [] [])) = some (.error (.rangeError (-1))) := by decide
/-- V31. -/
theorem test_getSpeed_slot_one :
    (resultOf (exec (.getSpeed 1) { State.reset with tgt := slotsB })).bind Result.number = some (-32767) := by decide
/-- V32. -/
theorem test_getSpeed_out_of_range : resultOf (exec (.getSpeed 255) (ready [] [])) = some (.error (.rangeError 255)) := by
  decide
/-- V31, S6: unsigned. -/
theorem test_getRes_slot_zero :
    (resultOf (exec (.getRes 0) { State.reset with tgt := slotsB })).bind Result.number = some 65535 := by decide
/-- V31. -/
theorem test_getRes_slot_two :
    (resultOf (exec (.getRes 2) { State.reset with tgt := slotsB })).bind Result.number = some 40000 := by decide
/-! ### Witnesses: the hypotheses of each statement can be met, clause by clause, at the ends of their ranges -/

theorem witness_ResetEventClearsBlock :
    ∃ s : State, s.seq = .idle ∧ s.pending = [.reset, .host 2 0] ∧ s.started = true ∧ s.tgt ≠ .zero :=
  ⟨{ ready [] [] with pending := [.reset, .host 2 0] }, rfl, rfl, rfl, by decide⟩

theorem witness_StepRunsDecodedInstruction :
    ∃ (s : State) (r : Request) (rest : List Request) (raw : RawItem) (i : Instr), s.seq = .idle ∧ s.pending = r :: rest ∧
      fetch (s.setPending rest) r = some raw ∧ decode raw = .ok i ∧ i.wf = true :=
  ⟨filled frameA 0 (.record 2), .record 2, [], .wire .rec8 [0x2C, 0x01, 0xC2, 0x81, 0x0C, 0x80, 0x68, 0x01],
    .record payloadA.rec2, by decide +kernel⟩

theorem witness_StepRunsHostOperation :
    (filled [] 0 (.host 5 2)).seq = .idle ∧ (filled [] 0 (.host 5 2)).pending = [.host 5 2] ∧
      decodeHost 5 2 = .ok (.getRes 2) ∧ (filled [] 0 (.host 6 2)).pending = [.host 6 2] ∧ 6 ≤ (6 : BitVec 3).toNat := by decide

theorem witness_IdleBlockKeepsState : State.reset.seq = .idle ∧ State.reset.pending = [] := by decide

theorem witness_StepRunsScanTurn :
    ((filled frameA 0 .scan).seq = .idle ∧ (filled frameA 0 .scan).pending = [.scan] ∧
      (filled frameA 0 .scan).i < (filled frameA 0 .scan).len ∧ sig (filled frameA 0 .scan) 0 = true) ∧
    ((filled frameA 29 .scan).i < (filled frameA 29 .scan).len ∧ sig (filled frameA 29 .scan) 29 = false) := by
  decide +kernel

theorem witness_DecodeEncodeRoundTrip : (Instr.dataReport payloadA.rec0 payloadA.rec1 payloadA.rec2).wf = true := rfl

theorem witness_EncodeDecodeRoundTrip :
    (decode (.wire .u16 [0xFF, 0xFF]) = .ok (.uField 0xFFFF) ∧ Instr.uField 0xFFFF ≠ .refresh) ∧
    decode (.host 1 (-7)) = .ok .refresh := by decide

theorem witness_FrameMatchAndMask :
    (frameA.length = 30 ∧ Wire.masked frameA = Wire.pattern) ∧
    ((frameA.set 28 0x54).length = 30 ∧ Wire.masked (frameA.set 28 0x54) ≠ Wire.pattern) := by decide

/-- For FillWritesReceivedBytes and BufferReadPrimitive. -/
theorem witness_FillAndBufferRead :
    ({ State.reset with seq := .fill, rx := [0xAA], tail := [(1, 0xFF)] } : State).seq = .fill ∧ ([0xAA] : List Byte) ≠ [] ∧
      ([0xAA] : List Byte)[0]? = some 0xAA ∧ ([0xAA] : List Byte).length ≤ 1 ∧
      ([(1, 0xFF)] : List (Nat × Byte)).lookup 1 = some 0xFF ∧ ([(1, 0xFF)] : List (Nat × Byte)).lookup 2 = none := by decide

theorem witness_SmFieldDecodes : (0x8000 : U16).msb = true ∧ (0x7FFF : U16).msb = false := by decide

theorem witness_SignMagnitudeLaws :
    (1 ≤ 1 ∧ 1 ≤ 32767 ∧ 32767 ≤ 32767) ∧ (smdec 0x8001).toInt = 1 ∧ (smdec 0xFFFF).toInt = 32767 ∧
      (smdec 0x0001).toInt = -1 ∧ (smdec 0x7FFF).toInt = -32767 := by decide

/-- For StepExtractsRecord and StepExtractsField. -/
theorem witness_StepExtracts :
    (filled (frameA.take 28) 0 (.record 2)).seq = .idle ∧
      (filled (frameA.take 28) 0 (.record 2)).pending = [.record 2] ∧ recFit 0 2 28 = true ∧ recFit 0 2 27 = false ∧
      (filled (frameA.take 12) 0 (.field 0 .resolution)).pending = [.field 0 .resolution] ∧ recFit 0 0 12 = true := by
  decide +kernel

theorem witness_FitIsMonotone :
    (0 + 28 ≤ 28 ∧ 28 < 0 + 30) ∧ (0 + 20 ≤ 20 ∧ 27 < 0 + 28) ∧ (0 + 12 ≤ 12 ∧ 19 < 0 + 20) ∧ 11 < 0 + 12 := by decide

theorem witness_TailNeverReachesSlot :
    ∃ s s' : State, s.seq = .fill ∧ s'.seq = .fill ∧ s.rx = s'.rx ∧ s.rx ≠ [] ∧ s.tail ≠ s'.tail ∧
      recFit 0 0 s.rx.length = true :=
  ⟨{ State.reset with seq := .fill, rx := frameA.take 12 },
    { State.reset with seq := .fill, rx := frameA.take 12, tail := [(12, 0x01)] }, by decide⟩

theorem witness_RecordWriteReplacesSlot : (1 : Fin 3) ≠ 0 ∧ (2 : Fin 3) ≠ 0 := by decide

theorem witness_BadIndexGivesRangeError :
    ((3 : Int) ≠ 0 ∧ (3 : Int) ≠ 1 ∧ (3 : Int) ≠ 2) ∧ ((-1 : Int) ≠ 0 ∧ (-1 : Int) ≠ 1 ∧ (-1 : Int) ≠ 2) := by decide

theorem witness_OnlyAccessorsRaiseRangeError :
    (∃ t, exec (.getRes 3) State.reset = .next t ∧ t.result.errorCode = 1) ∧
    (∃ t, exec (.getRes 2) State.reset = .next t ∧ t.result.errorCode = 0) :=
  ⟨⟨_, rfl, rfl⟩, ⟨_, rfl, rfl⟩⟩

theorem witness_AbnormalConditions :
    noDataAt (ready [] []) = true ∧
      unsynchronizedAt { filled frameA 29 .scan with seq := .test } 29 = true ∧
      truncatedAt { filled (frameA.take 27) 0 .scan with tail := [(28, 0x55), (29, 0xCC)] } 0 2 = true ∧
      outOfRangeIndex 3 = true ∧ outOfRangeIndex 2 = false := by decide +kernel

theorem witness_RangeErrorLeavesNoTrace :
    ∃ s : State, s.seq = .idle ∧ s.pending = [.host 2 3, .host 5 1] ∧ 2 ≤ (2 : BitVec 3).toNat ∧ (5 : BitVec 3).toNat ≤ 5 :=
  ⟨{ ready [] [] with pending := [.host 2 3, .host 5 1] }, by decide⟩

theorem witness_AccessorsArePure :
    (ready [] []).tgt = ({ State.reset with tgt := slotsA } : State).tgt ∧
      (ready [] []).started ≠ ({ State.reset with tgt := slotsA } : State).started := by decide

/-- For RefreshComputesScan and LastFittingMatchWins. -/
theorem witness_RefreshComputesScan : (ready frameA []).started = true ∧ nextRx (ready frameA []) = frameA := by
  decide

theorem witness_RefreshWithoutData : (ready [] []).started = true ∧ nextRx (ready [] []) = [] := by decide

theorem witness_RefreshBeforeBeginRefused : State.reset.started = false := rfl

/-- V29b. -/
theorem witness_NoMatchLeavesSlots :
    (ready [0x00, 0x01, 0x02, 0x03, 0x04] []).started = true ∧
      ∀ i, i < (nextRx (ready [0x00, 0x01, 0x02, 0x03, 0x04] [])).length →
        inputSig (nextRx (ready [0x00, 0x01, 0x02, 0x03, 0x04] []))
          (nextTail (ready [0x00, 0x01, 0x02, 0x03, 0x04] [])) i = false := by
  refine ⟨rfl, ?_⟩
  intro i hi
  match i, hi with
  | 0, _ => rfl
  | 1, _ => rfl
  | 2, _ => rfl
  | 3, _ => rfl
  | 4, _ => rfl

theorem witness_SequencerRows :
    (∃ s : State, s.seq = .fill ∧ s.rx = []) ∧ (∃ s : State, s.seq = .fill ∧ s.rx ≠ []) ∧
    (∃ s : State, s.seq = .test ∧ s.len ≤ s.i) ∧
    (∃ s : State, s.seq = .test ∧ s.i < s.len ∧ sig s s.i = true) ∧
    (∃ s : State, s.seq = .test ∧ s.i < s.len ∧ sig s s.i = false) ∧
    (∃ s : State, s.seq = .rec0) ∧ (∃ s : State, s.seq = .rec1) ∧ (∃ s : State, s.seq = .rec2) ∧
    (∃ s : State, s.seq = .adv) ∧ (∃ s : State, s.seq = .done) :=
  ⟨⟨{ State.reset with seq := .fill }, by decide⟩, ⟨{ State.reset with seq := .fill, rx := [0x00] }, by decide⟩,
    ⟨{ State.reset with seq := .test }, by decide⟩,
    ⟨{ filled frameA 0 .scan with seq := .test }, by decide +kernel⟩,
    ⟨{ filled frameA 29 .scan with seq := .test }, by decide +kernel⟩,
    ⟨{ State.reset with seq := .rec0 }, rfl⟩, ⟨{ State.reset with seq := .rec1 }, rfl⟩,
    ⟨{ State.reset with seq := .rec2 }, rfl⟩, ⟨{ State.reset with seq := .adv }, rfl⟩,
    ⟨{ State.reset with seq := .done }, rfl⟩⟩

theorem witness_StepContinuesRefresh : ({ State.reset with seq := .done } : State).seq ≠ .idle := by decide

/-- V28: 80 bytes, and a tail that completes a third match at offset 60. -/
theorem witness_MatchesPerBuffer :
    (frameA ++ frameB ++ frameA.take 20).length ≤ 80 ∧
      (scanMatches (frameA ++ frameB ++ frameA.take 20) (fun j => if j = 88 then 0x55 else 0xCC))[2]? = some 60 := by
  decide +kernel

theorem witness_MatchesAreDisjointAndComplete :
    0 ∈ scanMatches frameA (fun _ => 0x00) ∧ 0 < frameA.length ∧ inputSig frameA (fun _ => 0x00) 0 = true := by decide +kernel

/-- Two REFRESHes with different tails of a whole frame whose third record holds the four header bytes at offset 20: 12 bytes from there
are received, but the scan passes over the offset with the frame. -/
theorem witness_TailMattersOnlyAtTruncatedHeader :
    (ready frameH []).started = true ∧ (ready frameH [(48, 0x55), (49, 0xCC)]).started = true ∧
      (ready frameH []).tgt = (ready frameH [(48, 0x55), (49, 0xCC)]).tgt ∧
      nextRx (ready frameH []) = nextRx (ready frameH [(48, 0x55), (49, 0xCC)]) ∧
      ¬ ∃ i, (nextRx (ready frameH []))[i]? = some 0xAA ∧ (nextRx (ready frameH []))[i + 1]? = some 0xFF ∧
        (nextRx (ready frameH []))[i + 2]? = some 0x03 ∧ (nextRx (ready frameH []))[i + 3]? = some 0x00 ∧
        i + 12 ≤ (nextRx (ready frameH [])).length ∧ (nextRx (ready frameH [])).length < i + 30 ∧
        (∀ m ∈ scanMatches (nextRx (ready frameH [])) (nextTail (ready frameH [])), ¬ (m < i ∧ i < m + 30)) ∧
        ((nextRx (ready frameH [])).length ≤ i + 28 ∨ (nextRx (ready frameH []))[i + 28]? = some 0x55) := by
  have hrx : nextRx (ready frameH []) = frameH := by decide
  have hlen : frameH.length = 32 := by decide
  refine ⟨rfl, rfl, rfl, rfl, ?_⟩
  rw [hrx, hlen]
  rintro ⟨i, h0, -, -, -, h1, h2, hm, -⟩
  have h0m : 0 ∈ scanMatches frameH (nextTail (ready frameH [])) := List.mem_cons_self ..
  exact hm 0 h0m ⟨by omega, by omega⟩

theorem witness_RefreshIgnoresEarlierScans :
    ∃ s s' : State, s.started = true ∧ s'.started = true ∧ s.cap = s'.cap ∧ s.tgt = s'.tgt ∧ s.serial = s'.serial ∧
      s.draws = s'.draws ∧
      s.buf ≠ s'.buf ∧ s.len ≠ s'.len :=
  ⟨ready [0xAA] [], { ready [0xAA] [] with buf := [(1, 0xFF)], len := 2 }, by decide⟩

theorem witness_FrameAfterNoiseIsDecoded :
    (ready ([0x00] ++ encodeFrame payloadA) []).started = true ∧ (0xAA : Byte) ∉ ([0x00] : List Byte) ∧
      nextRx (ready ([0x00] ++ encodeFrame payloadA) []) = [0x00] ++ encodeFrame payloadA := by decide

theorem witness_BackToBackFramesSecondWins :
    nextRx (ready (encodeFrame payloadA ++ encodeFrame payloadA) []) =
      encodeFrame payloadA ++ encodeFrame payloadA := by decide

theorem witness_TruncatedFrameKeepsSlotTwo :
    (nextRx (ready ((encodeFrame payloadA).take 20) [(28, 0x55), (29, 0xCC)]) = (encodeFrame payloadA).take 20 ∧
      nextTail (ready ((encodeFrame payloadA).take 20) [(28, 0x55), (29, 0xCC)]) 28 = 0x55 ∧
      nextTail (ready ((encodeFrame payloadA).take 20) [(28, 0x55), (29, 0xCC)]) 29 = 0xCC) ∧
    nextRx (ready ((encodeFrame payloadA).take 27) [(28, 0x55), (29, 0xCC)]) = (encodeFrame payloadA).take 27 := by
  decide

/-- A payload that holds `AA`, for the clauses without a premise on it; and frame A, for the last one. -/
theorem witness_CorruptedMagicIsRejected :
    ((encodeFrame payloadH)[29]? ≠ some 0xCD ∧
      nextRx (ready ((encodeFrame payloadH).set 29 0xCD) []) = (encodeFrame payloadH).set 29 0xCD ∧
      ((encodeFrame payloadH).set 29 0xCD)[20]? = some 0xAA) ∧
    ((encodeFrame payloadA)[0]? ≠ some 0xAB ∧ (ready ((encodeFrame payloadA).set 0 0xAB) []).started = true ∧
      nextRx (ready ((encodeFrame payloadA).set 0 0xAB) []) = (encodeFrame payloadA).set 0 0xAB ∧
      ∀ j, 1 ≤ j → (nextRx (ready ((encodeFrame payloadA).set 0 0xAB) []))[j]? ≠ some 0xAA) := by
  refine ⟨by decide, by decide, rfl, by decide, ?_⟩
  have hrx : nextRx (ready ((encodeFrame payloadA).set 0 0xAB) []) = (encodeFrame payloadA).set 0 0xAB := by decide
  have hlen : ((encodeFrame payloadA).set 0 0xAB).length = 30 := by decide
  have hno : ∀ j < 30, ((encodeFrame payloadA).set 0 0xAB)[j]? ≠ some 0xAA := by decide
  rw [hrx]
  intro j _
  by_cases h : j < 30
  · exact hno j h
  · rw [List.getElem?_eq_none (by omega)]; simp

theorem witness_StepKeepsInvariant :
    inv (filled frameA 0 .scan) = true ∧ (∃ t, step (filled frameA 0 .scan) = .next t) ∧
    inv { ready frameA [] with cap := 1, pending := [.host 1 0] } = true :=
  ⟨by decide +kernel, ⟨_, rfl⟩, by decide⟩

theorem witness_CapacityIsFixed :
    ∃ s t : State, step s = .next t ∧ s.cap = 1 ∧ s.pending = [.reset] :=
  ⟨{ State.reset with cap := 1, pending := [.reset] }, _, rfl, rfl, rfl⟩

theorem witness_SlotWriters :
    ∃ s t : State, step s = .next t ∧ t.tgt ≠ s.tgt :=
  ⟨{ ready [] [] with pending := [.reset] }, _, rfl, by decide⟩

theorem witness_StartedWriters :
    (∃ s t : State, step s = .next t ∧ t.started ≠ s.started ∧ s.pending = [.host 0 9600]) ∧
    (∃ s t : State, step s = .next t ∧ t.started ≠ s.started ∧ s.pending = [.reset]) :=
  ⟨⟨{ State.reset with pending := [.host 0 9600] }, _, rfl, by decide, rfl⟩,
    ⟨{ ready [] [] with pending := [.reset] }, _, rfl, by decide, rfl⟩⟩

theorem witness_BitrateIsNeverRead :
    (∃ t, step ({ State.reset with pending := [.host 2 0] }) = .next t) ∧
    (∃ r, step ({ State.reset with pending := [.host 1 0] }) = .refused r) :=
  ⟨⟨_, rfl⟩, ⟨_, rfl⟩⟩

theorem witness_ContractAvoidsErrors :
    ∃ s : State, s.seq = .idle ∧ s.pending = [.host 0 9600, .host 1 0, .host 2 2] ∧ hostOk s.started s.pending = true ∧
      hostOk false [.host 1 0] = false ∧ hostOk true [.host 2 3] = false :=
  ⟨{ State.reset with pending := [.host 0 9600, .host 1 0, .host 2 2] }, by decide⟩

end Sys2Proof.Tests
end

section
/-! SUPPORT. What a step can do, as one case per effect, and the capacity of the block. -/

namespace Sys2Proof.Machine

/-! ### What a request can lead to -/

/-- The next states a request can lead an idle block to, one constructor per effect on the block: BEGIN (44_host_operations.md
R141), REFRESH (R142), the turn of a scan (40_frame_sync.md R82), the reset event (R180), and everything that hands a result back and
changes nothing else. -/
inductive RequestStep (s : State) : Request → State → Prop where
  | begin (bitrate : Int) :
    RequestStep s (.host 0 bitrate) (((s.setBitrate bitrate).setStarted true).setResult .nothing)
  | refresh (arg : Int) (started : s.started = true) : RequestStep s (.host 1 arg) (runRefresh s)
  | reset : RequestStep s .reset s.applyReset
  | scanTurn (inScan : s.i < s.len) : RequestStep s .scan ((scanTurn s).setResult .nothing)
  | result (r : Request) (v : Result) : RequestStep s r (s.setResult v)

/-- An accessor hands a result back, be it the error, and changes nothing else (43_target_regfile.md R127). -/
theorem readSlot_eq_setResult (index : Int) (value : Target → Result) (s : State) :
    ∃ v, readSlot index value s = .next (s.setResult v) := by
  rcases readSlot_eq index value s with ⟨k, -, h⟩ | ⟨-, h⟩
  · exact ⟨_, h⟩
  · exact ⟨_, h⟩

theorem requestStep_of_readSlot {index : Int} {value : Target → Result} {s t : State} (r : Request)
    (h : readSlot index value s = .next t) : RequestStep s r t := by
  obtain ⟨v, hv⟩ := readSlot_eq_setResult index value s
  rw [hv] at h
  cases h
  exact .result r v

/-- A REFRESH with a next state was started (44_host_operations.md R145). -/
theorem execRefresh_eq_next {s t : State} (h : execRefresh s = .next t) : s.started = true ∧ t = runRefresh s := by
  unfold execRefresh at h
  split at h
  · cases h; exact ⟨‹_›, rfl⟩
  · cases h

/-- The host's requests, selector by selector (30_encoding.md R60). -/
theorem runRequest_host_next {op : BitVec 3} {arg : Int} {s t : State}
    (h : runRequest (.host op arg) s = .next t) : RequestStep s (.host op arg) t := by
  match op with
  | 0 => cases h; exact .begin arg
  | 1 =>
    obtain ⟨hst, rfl⟩ := execRefresh_eq_next (show execRefresh s = .next t from h)
    exact .refresh arg hst
  | 2 => exact requestStep_of_readSlot (value := fun t => .signed t.x) _ h
  | 3 => exact requestStep_of_readSlot (value := fun t => .signed t.y) _ h
  | 4 => exact requestStep_of_readSlot (value := fun t => .signed t.speed) _ h
  | 5 => exact requestStep_of_readSlot (value := fun t => .unsigned t.resolution) _ h
  | 6 => cases h
  | 7 => cases h

theorem scanTurn_of_sig {s : State} (h : sig s s.i = true) : scanTurn s = processMatch (payloadAt s s.i) s :=
  if_pos h

theorem scanTurn_of_not_sig {s : State} (h : sig s s.i = false) : scanTurn s = advance1 s := by
  simp [scanTurn, h]

theorem runRequest_next {r : Request} {s t : State} (h : runRequest r s = .next t) : RequestStep s r t := by
  rcases runRequest_cases r s with ⟨op, arg, -, rfl, -, -⟩ | ⟨op, arg, rfl, -, -⟩ | ⟨rfl, he⟩ | ⟨rfl, hi, hs, he⟩ |
    ⟨rfl, hi, hs, he⟩ | ⟨-, v, -, he⟩
  · exact runRequest_host_next h
  · exact runRequest_host_next h
  · cases he.symm.trans h; exact .reset
  · cases he.symm.trans h; exact scanTurn_of_sig hs ▸ .scanTurn hi
  · cases he.symm.trans h; exact scanTurn_of_not_sig hs ▸ .scanTurn hi
  · cases he.symm.trans h; exact .result r v

/-- Everything a step with a next state can have done. -/
theorem step_next {s t : State} (h : step s = .next t) :
    (s.seq = .idle ∧ t = s) ∨
    (∃ r rest, s.seq = .idle ∧ s.pending = r :: rest ∧ RequestStep (s.setPending rest) r t) ∨
    (s.seq ≠ .idle ∧ t = seqStep s) := by
  rcases step_cases s with ⟨hq, -, he⟩ | ⟨r, rest, hq, hp, he⟩ | ⟨hq, he⟩
  · cases he.symm.trans h; exact .inl ⟨hq, rfl⟩
  · exact .inr (.inl ⟨r, rest, hq, hp, runRequest_next (he.symm.trans h)⟩)
  · cases he.symm.trans h; exact .inr (.inr ⟨hq, rfl⟩)

/-! ### The capacity -/

@[simp] theorem writeRecord_cap (p : Payload) (k : Fin 3) (s : State) : (writeRecord p k s).cap = s.cap := by
  rw [writeRecord_eq]; rfl

@[simp] theorem scanTurn_cap (s : State) : (scanTurn s).cap = s.cap := by
  obtain ⟨r, j, -, -, h⟩ := scanTurn_eq s
  rw [h]; rfl

@[simp] theorem runRefresh_cap (s : State) : (runRefresh s).cap = s.cap := by
  obtain ⟨r, j, h⟩ := runRefresh_eq s
  rw [h]

@[simp] theorem seqStep_cap (s : State) : (seqStep s).cap = s.cap := by
  unfold seqStep
  split
  next => rfl
  next => split <;> rfl
  next =>
    split
    · split <;> rfl
    · rfl
  next => simp
  next => simp
  next => simp
  next => rfl
  next => rfl

theorem RequestStep.cap_eq {s t : State} {r : Request} (h : RequestStep s r t) : t.cap = s.cap := by
  cases h with
  | begin bitrate => rfl
  | refresh arg started => exact runRefresh_cap s
  | reset => rfl
  | scanTurn inScan => exact scanTurn_cap s
  | result r v => rfl

/-- Settles O60: no effect of a step writes the capacity (00_scope.md R2). -/
theorem capacityIsFixed : Obligations.CapacityIsFixed := by
  refine ⟨rfl, fun s t h => ?_⟩
  rcases step_next h with ⟨-, rfl⟩ | ⟨r, rest, -, -, hr⟩ | ⟨-, rfl⟩
  · rfl
  · exact hr.cap_eq
  · exact seqStep_cap s

end Sys2Proof.Machine
end

section
/-! SUPPORT. The invariant of the block as named facts, what each operation makes of it, and that every step keeps it. -/

namespace Sys2Proof.Safety

open Sys2Proof.Machine

/-! ### The slots: values the decode can produce (10_state.md R11) -/

/-- Every slot of the register file holds values the decode can produce. -/
def SlotsOk (r : RegFile) : Prop := ∀ k, targetOk (r.get k) = true

/-- The sign-magnitude decode never yields -32768 (42_field_extract.md R103). -/
theorem signedOk_smdec (r : U16) : signedOk (smdec r) = true := by
  have hne : smdec r ≠ 0x8000 := by
    intro h
    have hmin : (0x8000 : S16).toInt = -32768 := by decide
    have hmsb : r.msb = decide (0x8000 ≤ r.toNat) := BitVec.msb_eq_decide r
    have hval := smdec_toInt r
    rw [h, hmin, hmsb] at hval
    simp only [decide_eq_true_eq] at hval
    split at hval <;> omega
  simpa [signedOk] using hne

theorem targetOk_recDec (r : RawRecord) : targetOk (recDec r) = true := by
  simp [targetOk, recDec, signedOk_smdec]

theorem slotsOk_zero : SlotsOk .zero
  | 0 => by decide
  | 1 => by decide
  | 2 => by decide

theorem SlotsOk.set {r : RegFile} (h : SlotsOk r) (k : Fin 3) {v : Target} (hv : targetOk v = true) :
    SlotsOk (r.set k v) := by
  intro j
  by_cases hj : j = k
  · subst hj; simpa using hv
  · rw [RegFile.get_set_other r v hj]; exact h j

theorem SlotsOk.matchTgt {r : RegFile} (h : SlotsOk r) (p : Payload) (i len : Nat) :
    SlotsOk (matchTgt p i len r) := by
  intro k
  rw [matchTgt_get]
  split
  · exact targetOk_recDec _
  · exact h k

/-! ### The invariant, clause by clause -/

/-- The clauses of `Safety.inv` by name. -/
structure BlockInv (s : State) : Prop where
  slots : SlotsOk s.tgt
  buf_wf : s.buf.wf = true
  buf_below : s.buf.below s.cap = true
  one_le_cap : 1 ≤ s.cap
  len_le : s.len ≤ s.cap
  rx_le : s.rx.length ≤ s.cap
  filled : ∀ j < s.len, (s.buf.read j).isSome = true
  i_le : s.i ≤ s.cap + 29
  match_lt : inMatch s.seq = true → s.i < s.len
  started : s.seq ≠ .idle → s.started = true

theorem slotsOk_iff (r : RegFile) :
    SlotsOk r ↔ targetOk r.slot0 = true ∧ targetOk r.slot1 = true ∧ targetOk r.slot2 = true := by
  simp [SlotsOk, Fin.forall_fin_succ, RegFile.get]

theorem inv_iff (s : State) : inv s = true ↔ BlockInv s := by
  simp only [inv, Bool.and_eq_true, Bool.or_eq_true, Bool.not_eq_true', decide_eq_true_eq, List.all_eq_true,
    List.mem_range, beq_iff_eq]
  constructor
  · rintro ⟨⟨⟨⟨⟨⟨⟨⟨⟨⟨⟨h0, h1⟩, h2⟩, hwf⟩, hbelow⟩, hcap⟩, hlen⟩, hrx⟩, hfilled⟩, hi⟩, hmatch⟩, hst⟩
    exact ⟨(slotsOk_iff _).mpr ⟨h0, h1, h2⟩, hwf, hbelow, hcap, hlen, hrx, hfilled, hi,
      fun h => hmatch.resolve_left (by simp [h]), fun h => hst.resolve_left h⟩
  · intro h
    obtain ⟨h0, h1, h2⟩ := (slotsOk_iff _).mp h.slots
    refine ⟨⟨⟨⟨⟨⟨⟨⟨⟨⟨⟨h0, h1⟩, h2⟩, h.buf_wf⟩, h.buf_below⟩, h.one_le_cap⟩, h.len_le⟩, h.rx_le⟩, h.filled⟩, h.i_le⟩, ?_⟩, ?_⟩
    · cases hm : inMatch s.seq with
      | false => exact .inl rfl
      | true => exact .inr (h.match_lt hm)
    · exact Classical.or_iff_not_imp_left.mpr h.started

namespace BlockInv

variable {s : State}

/-! ### The parts of a REFRESH -/

theorem setResult (h : BlockInv s) (v : Result) : BlockInv (s.setResult v) := { h with }

theorem setPending (h : BlockInv s) (v : List Request) : BlockInv (s.setPending v) := { h with }

theorem setTgt (h : BlockInv s) {r : RegFile} (hr : SlotsOk r) : BlockInv (s.setTgt r) := { h with slots := hr }

/-- A record step of a match writes a decoded record or nothing. -/
theorem writeRecord (h : BlockInv s) (p : Payload) (k : Fin 3) : BlockInv (writeRecord p k s) := by
  rw [writeRecord_eq]
  apply h.setTgt
  split
  · exact h.slots.set k (targetOk_recDec _)
  · exact h.slots

/-- The scan index moves, and the sequencer is at no match afterwards. -/
theorem setI (h : BlockInv s) {j : Nat} (hj : j ≤ s.cap + 29) (hq : inMatch s.seq = false) : BlockInv (s.setI j) :=
  { h with i_le := hj, match_lt := fun hm => absurd (hq.symm.trans hm) Bool.false_ne_true }

/-- The sequencer of a REFRESH in progress moves on. -/
theorem setSeq (h : BlockInv s) {q : Seq} (hs : s.seq ≠ .idle) (hq : inMatch q = true → s.i < s.len) :
    BlockInv (s.setSeq q) :=
  { h with match_lt := hq, started := fun _ => h.started hs }

/-- The sequencer moves on to a row that works on no match. -/
theorem setSeq_of_not_inMatch (h : BlockInv s) {q : Seq} (hs : s.seq ≠ .idle) (hq : inMatch q = false) :
    BlockInv (s.setSeq q) :=
  h.setSeq hs fun hm => absurd (hq.symm.trans hm) Bool.false_ne_true

theorem accept (h : BlockInv s) (hst : s.started = true) : BlockInv (accept s) :=
  { h with
    rx_le := nextRx_length_le s
    match_lt := fun hm => absurd hm Bool.false_ne_true
    started := fun _ => hst }

/-- The fill (R71): the bytes of `rx` are at most CAP many, and every position below the new LEN holds one of them. -/
theorem fillBuf (h : BlockInv s) (hq : inMatch s.seq = false) : BlockInv (fillBuf s) :=
  { h with
    buf_wf := Memory.wf_writeAll s.rx s.buf 0 h.buf_wf
    buf_below := Memory.below_writeAll s.cap s.rx s.buf 0 (by simpa using h.rx_le) h.buf_below
    len_le := h.rx_le
    filled := fun j hj => by
      have hj : j < s.rx.length := hj
      simp [fillBuf_read, hj]
    match_lt := fun hm => absurd (hq.symm.trans hm) Bool.false_ne_true }

/-- No bytes received (R144). -/
theorem setLen_zero (h : BlockInv s) (hq : inMatch s.seq = false) : BlockInv (s.setLen 0) :=
  { h with
    len_le := Nat.zero_le _
    filled := fun j hj => absurd hj (Nat.not_lt_zero j)
    match_lt := fun hm => absurd (hq.symm.trans hm) Bool.false_ne_true }

theorem processMatch (h : BlockInv s) (p : Payload) (hq : inMatch s.seq = false) (hi : s.i < s.len) :
    BlockInv (processMatch p s) := by
  rw [processMatch_eq]
  have hlen := h.len_le
  exact (h.setTgt (h.slots.matchTgt p s.i s.len)).setI (show s.i + 30 ≤ s.cap + 29 by omega) hq

theorem advance1 (h : BlockInv s) (hq : inMatch s.seq = false) (hi : s.i < s.len) : BlockInv (advance1 s) := by
  have hlen := h.len_le
  exact h.setI (by omega) hq

theorem scanTurn (h : BlockInv s) (hq : inMatch s.seq = false) (hi : s.i < s.len) : BlockInv (scanTurn s) := by
  unfold Machine.scanTurn
  split
  · exact h.processMatch _ hq hi
  · exact h.advance1 hq hi

theorem scanLoop (n : Nat) (h : BlockInv s) (hq : inMatch s.seq = false) : BlockInv (scanLoop n s) := by
  induction n generalizing s with
  | zero => exact h
  | succ n ih =>
    unfold Machine.scanLoop
    split
    · next hi =>
      have hseq : (Machine.scanTurn s).seq = s.seq := by
        obtain ⟨r, j, -, -, he⟩ := scanTurn_eq s
        rw [he]; rfl
      exact ih (h.scanTurn hq hi) (by rw [hseq, hq])
    · exact h

/-- The end of a REFRESH leaves the block idle, without inputs. -/
theorem finish (h : BlockInv s) : BlockInv (finish s) :=
  { h with
    rx_le := Nat.zero_le _
    match_lt := fun hm => absurd hm Bool.false_ne_true
    started := fun hs => absurd rfl hs }

/-! ### A whole REFRESH, the reset event, and the rows of the sequencer -/

theorem runRefresh (h : BlockInv s) (hst : s.started = true) : BlockInv (runRefresh s) := by
  have ha := h.accept hst
  unfold Machine.runRefresh
  dsimp only
  split
  · exact (ha.setLen_zero rfl).finish
  · exact (((ha.fillBuf rfl).setI (Nat.zero_le _) rfl).scanLoop _ rfl).finish

theorem applyReset (h : BlockInv s) : BlockInv s.applyReset where
  slots := slotsOk_zero
  buf_wf := rfl
  buf_below := rfl
  one_le_cap := h.one_le_cap
  len_le := Nat.zero_le _
  rx_le := Nat.zero_le _
  filled := fun j hj => absurd hj (Nat.not_lt_zero j)
  i_le := Nat.zero_le _
  match_lt := fun hm => absurd hm Bool.false_ne_true
  started := fun hs => absurd rfl hs

/-- After a match (row ADV of R70) the scan index leaves the filled region by at most 29 (10_state.md R17). -/
theorem advanceMatch (h : BlockInv s) (hq : s.seq = .adv) : BlockInv ((advanceMatch s).setSeq .test) := by
  have hlen := h.len_le
  have hi := h.match_lt (by simp [hq, inMatch])
  have hs : BlockInv (s.setSeq .test) := h.setSeq_of_not_inMatch (by simp [hq]) rfl
  exact hs.setI (show s.i + 30 ≤ s.cap + 29 by omega) rfl

/-- A record row of R70, on the way to the next row. -/
theorem recordRow (h : BlockInv s) (p : Payload) (k : Fin 3) {q : Seq} (hq : inMatch s.seq = true) :
    BlockInv ((Machine.writeRecord p k s).setSeq q) := by
  have hi := h.match_lt hq
  have hs : s.seq ≠ .idle := fun he => absurd hq (by simp [he, inMatch])
  apply (h.writeRecord p k).setSeq <;> rw [writeRecord_eq]
  · exact hs
  · exact fun _ => hi

theorem seqStep (h : BlockInv s) : BlockInv (seqStep s) := by
  unfold Machine.seqStep
  split
  next => exact h
  next hq =>
    have hm : inMatch s.seq = false := by simp [hq, inMatch]
    split
    · exact (h.setLen_zero hm).setSeq_of_not_inMatch (by simp [hq]) rfl
    · exact ((h.fillBuf hm).setI (Nat.zero_le _) hm).setSeq_of_not_inMatch
        (by simp [hq, Machine.fillBuf]) rfl
  next hq =>
    have hm : inMatch s.seq = false := by simp [hq, inMatch]
    split
    · next hi =>
      split
      · exact h.setSeq (by simp [hq]) (fun _ => hi)
      · exact h.advance1 hm hi
    · exact h.setSeq_of_not_inMatch (by simp [hq]) rfl
  next hq => exact h.recordRow _ 0 (by simp [hq, inMatch])
  next hq => exact h.recordRow _ 1 (by simp [hq, inMatch])
  next hq => exact h.recordRow _ 2 (by simp [hq, inMatch])
  next hq => exact h.advanceMatch hq
  next => exact h.finish

/-- A request an idle block takes. -/
theorem requestStep {t : State} {r : Request} (h : BlockInv s) (hidle : s.seq = .idle) (hr : RequestStep s r t) :
    BlockInv t := by
  cases hr with
  | begin bitrate => exact { h with started := fun _ => rfl }
  | refresh arg started => exact h.runRefresh started
  | reset => exact h.applyReset
  | scanTurn inScan => exact (h.scanTurn (by simp [hidle, inMatch]) inScan).setResult _
  | result r v => exact h.setResult v

theorem step {t : State} (h : BlockInv s) (hs : step s = .next t) : BlockInv t := by
  rcases step_next hs with ⟨-, rfl⟩ | ⟨r, rest, hidle, -, hr⟩ | ⟨-, rfl⟩
  · exact h
  · exact (h.setPending rest).requestStep hidle hr
  · exact h.seqStep

end BlockInv

/-- Settles O53: the invariant, clause by clause, through each effect a step can have. -/
theorem stepKeepsInvariant : Obligations.StepKeepsInvariant :=
  fun s t hs h => (inv_iff t).mpr (((inv_iff s).mp hs).step h)

end Sys2Proof.Safety
end

section
/-! SUPPORT. What a row of the sequencer and a REFRESH leave unchanged, and which steps write the slots and STARTED
(10_state.md R13, R19, R20). -/

namespace Sys2Proof.Machine

/-! ### The rows of the sequencer -/

/-- A row of R70 leaves CAP, STARTED, BITRATE, the requests, the coming inputs and the draw counter alone. -/
theorem seqStep_eq (s : State) : ∃ r m l j q rx tl v, seqStep s =
    { s with tgt := r, buf := m, len := l, i := j, seq := q, rx := rx, tail := tl, result := v } := by
  unfold seqStep
  split
  next => exact ⟨_, _, _, _, _, _, _, _, rfl⟩
  next => split <;> exact ⟨_, _, _, _, _, _, _, _, rfl⟩
  next =>
    split
    · split <;> exact ⟨_, _, _, _, _, _, _, _, rfl⟩
    · exact ⟨_, _, _, _, _, _, _, _, rfl⟩
  next => rw [writeRecord_eq]; exact ⟨_, _, _, _, _, _, _, _, rfl⟩
  next => rw [writeRecord_eq]; exact ⟨_, _, _, _, _, _, _, _, rfl⟩
  next => rw [writeRecord_eq]; exact ⟨_, _, _, _, _, _, _, _, rfl⟩
  next => exact ⟨_, _, _, _, _, _, _, _, rfl⟩
  next => exact ⟨_, _, _, _, _, _, _, _, rfl⟩

@[simp] theorem seqStep_pending (s : State) : (seqStep s).pending = s.pending := by
  obtain ⟨r, m, l, j, q, rx, tl, v, h⟩ := seqStep_eq s
  rw [h]

@[simp] theorem seqStep_started (s : State) : (seqStep s).started = s.started := by
  obtain ⟨r, m, l, j, q, rx, tl, v, h⟩ := seqStep_eq s
  rw [h]

/-- Only the record rows write the register file. -/
theorem seqStep_tgt_ne {s : State} (h : (seqStep s).tgt ≠ s.tgt) : s.seq = .rec0 ∨ s.seq = .rec1 ∨ s.seq = .rec2 := by
  unfold seqStep at h
  split at h
  next => exact absurd rfl h
  next => split at h <;> exact absurd rfl h
  next =>
    split at h
    · split at h <;> exact absurd rfl h
    · exact absurd rfl h
  next hq => exact .inl hq
  next hq => exact .inr (.inl hq)
  next hq => exact .inr (.inr hq)
  next => exact absurd rfl h
  next => exact absurd rfl h

/-- Settles O42: of the three things a step can be, a block that is not idle can only carry out a row. -/
theorem stepContinuesRefresh : Obligations.StepContinuesRefresh := by
  intro s hs
  refine ⟨?_, seqStep_pending s⟩
  rcases step_cases s with ⟨hidle, -, -⟩ | ⟨-, -, hidle, -, -⟩ | ⟨-, he⟩
  · exact absurd hidle hs
  · exact absurd hidle hs
  · exact he

/-! ### The writers of the slots and of STARTED -/

@[simp] theorem scanTurn_started (s : State) : (scanTurn s).started = s.started := by
  obtain ⟨r, j, -, -, h⟩ := scanTurn_eq s
  rw [h]; rfl

@[simp] theorem runRefresh_started (s : State) : (runRefresh s).started = s.started := by
  obtain ⟨r, j, h⟩ := runRefresh_eq s
  rw [h]

/-- The requests that can write the register file: the reset event, a turn of the scan, REFRESH. -/
theorem RequestStep.tgt_ne {s t : State} {r : Request} (h : RequestStep s r t) (hne : t.tgt ≠ s.tgt) :
    r = .reset ∨ r = .scan ∨ ∃ arg, r = .host 1 arg := by
  cases h with
  | begin bitrate => exact absurd rfl hne
  | refresh arg started => exact .inr (.inr ⟨arg, rfl⟩)
  | reset => exact .inl rfl
  | scanTurn inScan => exact .inr (.inl rfl)
  | result r v => exact absurd rfl hne

/-- The requests that can write STARTED, and what each leaves there. -/
theorem RequestStep.started_ne {s t : State} {r : Request} (h : RequestStep s r t) (hne : t.started ≠ s.started) :
    (∃ arg, r = .host 0 arg ∧ t.started = true) ∨ (r = .reset ∧ t.started = false) := by
  cases h with
  | begin bitrate => exact .inl ⟨bitrate, rfl, rfl⟩
  | refresh arg started => exact absurd (runRefresh_started s) hne
  | reset => exact .inr ⟨rfl, rfl⟩
  | scanTurn inScan => exact absurd (scanTurn_started s) hne
  | result r v => exact absurd rfl hne

/-- Settles O56, by the effects a step can have. -/
theorem slotWriters : Obligations.SlotWriters := by
  intro s t h hne
  rcases step_next h with ⟨-, rfl⟩ | ⟨r, rest, hidle, hp, hr⟩ | ⟨-, rfl⟩
  · exact absurd rfl hne
  · exact .inl ⟨hidle, r, rest, hp, hr.tgt_ne hne⟩
  · exact .inr (seqStep_tgt_ne hne)

/-- Settles O57, by the effects a step can have. -/
theorem startedWriters : Obligations.StartedWriters := by
  intro s t h hne
  rcases step_next h with ⟨-, rfl⟩ | ⟨r, rest, hidle, hp, hr⟩ | ⟨-, rfl⟩
  · exact absurd rfl hne
  · refine ⟨hidle, ?_⟩
    rcases hr.started_ne hne with ⟨arg, rfl, ht⟩ | ⟨rfl, ht⟩
    · exact .inl ⟨arg, rest, hp, ht⟩
    · exact .inr ⟨rest, hp, ht⟩
  · exact absurd (seqStep_started s) hne

end Sys2Proof.Machine
end

section
/-! SUPPORT. The signature test of a REFRESH on its inputs, and a scan that finds no signature (40_frame_sync.md R75, R80). -/

namespace Sys2Proof.Machine

/-- `B(j)` after the fill of a REFRESH (20_memory.md R33). -/
theorem bufByte_fillBuf_accept (s : State) (j : Nat) :
    bufByte (fillBuf (accept s)) j = inputByte (nextRx s) (nextTail s) j :=
  fillBuf_bufByte (accept s) j

/-- `SIG(i)` after the fill of a REFRESH (40_frame_sync.md R75). -/
theorem sig_fillBuf_accept (s : State) (i : Nat) :
    sig (fillBuf (accept s)) i = inputSig (nextRx s) (nextTail s) i := by
  simp only [sig, hdrCmp, ftrCmp, bufByte_fillBuf_accept, inputSig, Bool.and_assoc]

/-- The register file after a REFRESH is that after its scan; without bytes the scan has no turn (44_host_operations.md R144). -/
theorem runRefresh_tgt (s : State) :
    (runRefresh s).tgt = (scanLoop (nextRx s).length ((fillBuf (accept s)).setI 0)).tgt := by
  unfold runRefresh
  by_cases h : (nextRx s).length = 0
  · simp only [accept_rx, h, if_true]
    rfl
  · simp only [accept_rx, h, if_false]
    rfl

@[simp] theorem runRefresh_result (s : State) :
    (runRefresh s).result = .bool (refreshResult (nextRx s).length) := by
  obtain ⟨r, j, h⟩ := runRefresh_eq s
  rw [h]

/-- A scan over bytes without the signature writes no slot (40_frame_sync.md R80). -/
theorem scanLoop_tgt_of_no_sig (n : Nat) {s : State} (h : ∀ i < s.len, sig s i = false) :
    (scanLoop n s).tgt = s.tgt := by
  induction n generalizing s with
  | zero => rfl
  | succ n ih =>
    unfold scanLoop
    split
    · next hi =>
      rw [scanTurn_of_not_sig (h s.i hi)]
      exact ih (s := advance1 s) h
    · rfl

/-- Settles O40: the scan sees the signature nowhere, so it writes nothing. -/
theorem noMatchLeavesSlots : Obligations.NoMatchLeavesSlots := by
  intro s hst hno
  refine ⟨runRefresh s, exec_refresh_started hst, ?_, runRefresh_result s⟩
  have hsig : ∀ i < (nextRx s).length, sig (fillBuf (accept s)) i = false := fun i hi =>
    (sig_fillBuf_accept s i).trans (hno i hi)
  rw [runRefresh_tgt]
  exact scanLoop_tgt_of_no_sig _ (s := (fillBuf (accept s)).setI 0) hsig

end Sys2Proof.Machine
end

section
/-! SUPPORT. Every operation does the same whatever BITRATE holds (10_state.md R22). -/

namespace Sys2Proof.Machine

/-! ### The parts of a REFRESH -/

theorem window_setBitrate (s : State) (b : Int) (j n : Nat) : window (s.setBitrate b) j n = window s j n := by
  induction n generalizing j with
  | zero => rfl
  | succ n ih => rw [window, window, ih]; rfl

theorem fetch_setBitrate (s : State) (b : Int) (r : Request) : fetch (s.setBitrate b) r = fetch s r := by
  cases r with
  | host op arg => rfl
  | reset => rfl
  | scan => simp only [fetch, window_setBitrate, State.setBitrate_i, State.setBitrate_len]
  | record k => simp only [fetch, window_setBitrate, State.setBitrate_i, State.setBitrate_len]
  | field k f => simp only [fetch, window_setBitrate, State.setBitrate_i, State.setBitrate_len]

theorem writeRecord_setBitrate (p : Payload) (k : Fin 3) (s : State) (b : Int) :
    writeRecord p k (s.setBitrate b) = (writeRecord p k s).setBitrate b := by
  rw [writeRecord_eq, writeRecord_eq]; rfl

theorem processMatch_setBitrate (p : Payload) (s : State) (b : Int) :
    processMatch p (s.setBitrate b) = (processMatch p s).setBitrate b := by
  rw [processMatch_eq, processMatch_eq]; rfl

theorem scanTurn_setBitrate (s : State) (b : Int) : scanTurn (s.setBitrate b) = (scanTurn s).setBitrate b := by
  have hsig : sig (s.setBitrate b) (s.setBitrate b).i = sig s s.i := rfl
  cases h : sig s s.i with
  | true => rw [scanTurn_of_sig h, scanTurn_of_sig (hsig.trans h)]; exact processMatch_setBitrate _ s b
  | false => rw [scanTurn_of_not_sig h, scanTurn_of_not_sig (hsig.trans h)]; rfl

theorem scanLoop_setBitrate (n : Nat) (s : State) (b : Int) :
    scanLoop n (s.setBitrate b) = (scanLoop n s).setBitrate b := by
  induction n generalizing s with
  | zero => rfl
  | succ n ih =>
    simp only [scanLoop, State.setBitrate_i, State.setBitrate_len, scanTurn_setBitrate, ih]
    split <;> rfl

theorem runRefresh_setBitrate (s : State) (b : Int) :
    runRefresh (s.setBitrate b) = (runRefresh s).setBitrate b := by
  have hscan := scanLoop_setBitrate (nextRx s).length ((fillBuf (accept s)).setI 0) b
  have hrx : nextRx (s.setBitrate b) = nextRx s := rfl
  unfold runRefresh
  by_cases h : (nextRx s).length = 0
  · simp only [accept_rx, hrx, h, if_true]
    rfl
  · simp only [accept_rx, hrx, h, if_false]
    exact congrArg finish hscan

theorem seqStep_setBitrate (s : State) (b : Int) : seqStep (s.setBitrate b) = (seqStep s).setBitrate b := by
  have hsig : sig (s.setBitrate b) s.i = sig s s.i := rfl
  unfold seqStep
  simp only [State.setBitrate_seq, State.setBitrate_rx, State.setBitrate_i, State.setBitrate_len, hsig,
    writeRecord_setBitrate]
  split
  next => rfl
  next =>
    by_cases h : s.rx.length = 0
    · simp only [h, if_true]
      rfl
    · simp only [h, if_false]
      rfl
  next =>
    split
    · split <;> rfl
    · rfl
  next => rfl
  next => rfl
  next => rfl
  next => rfl
  next => rfl

/-! ### The step -/

/-- Two outcomes that differ in BITRATE at most: next states equal but for it, or the same refusal. No step answers a fault. -/
inductive AgreeUpToBitrate : Host.Outcome State Fault Refusal → Host.Outcome State Fault Refusal → Prop where
  | next (t : State) (b : Int) : AgreeUpToBitrate (.next t) (.next (t.setBitrate b))
  | refused (r : Refusal) : AgreeUpToBitrate (.refused r) (.refused r)

/-- The same next states but for BITRATE, and the same refusals. -/
theorem AgreeUpToBitrate.next_refused {o o' : Host.Outcome State Fault Refusal} (h : AgreeUpToBitrate o o') :
    (∀ t, o = .next t → ∃ b', o' = .next (t.setBitrate b')) ∧ (∀ r, o = .refused r → o' = .refused r) := by
  cases h with
  | next t b =>
    refine ⟨fun t' ht => ?_, fun r hr => (nomatch hr)⟩
    cases ht
    exact ⟨b, rfl⟩
  | refused r => exact ⟨fun t ht => (nomatch ht), fun r' hr => hr⟩

theorem readSlot_setBitrate (index : Int) (value : Target → Result) (s : State) (b : Int) :
    AgreeUpToBitrate (readSlot index value s) (readSlot index value (s.setBitrate b)) := by
  unfold readSlot
  cases slotOf index with
  | some k => exact .next _ b
  | none => exact .next _ b

theorem exec_setBitrate (i : Instr) (s : State) (b : Int) :
    AgreeUpToBitrate (exec i s) (exec i (s.setBitrate b)) := by
  cases i with
  | dataReport r0 r1 r2 =>
    rw [exec_dataReport, exec_dataReport, processMatch_setBitrate]
    exact .next _ b
  | record raw => exact .next _ b
  | smField raw => exact .next _ b
  | uField raw => exact .next _ b
  | begin bitrate => exact .next _ bitrate
  | refresh =>
    simp only [exec, execRefresh, State.setBitrate_started, runRefresh_setBitrate]
    cases s.started with
    | true => exact .next _ b
    | false => exact .refused _
  | getX index => rw [exec_getX, exec_getX]; exact readSlot_setBitrate index _ s b
  | getY index => rw [exec_getY, exec_getY]; exact readSlot_setBitrate index _ s b
  | getSpeed index => rw [exec_getSpeed, exec_getSpeed]; exact readSlot_setBitrate index _ s b
  | getRes index => rw [exec_getRes, exec_getRes]; exact readSlot_setBitrate index _ s b

/-- Only the reset event writes BITRATE among the requests that yield no item (R180). -/
theorem noItem_setBitrate (s : State) (b : Int) (r : Request) :
    AgreeUpToBitrate (.next (noItem s r)) (.next (noItem (s.setBitrate b) r)) := by
  cases r with
  | reset => exact .next _ 0
  | host op arg => exact .next _ b
  | scan => exact .next _ b
  | record k => exact .next _ b
  | field k f => exact .next _ b

theorem rejected_setBitrate (e : DecodeError) (s : State) (b : Int) :
    AgreeUpToBitrate (rejected e s) (rejected e (s.setBitrate b)) := by
  cases e with
  | notAFrame => exact .next _ b
  | noOperation op => exact .refused _
  | badLength fmt n => exact .refused _

theorem runRequest_setBitrate (r : Request) (s : State) (b : Int) :
    AgreeUpToBitrate (runRequest r s) (runRequest r (s.setBitrate b)) := by
  simp only [runRequest, fetch_setBitrate]
  cases fetch s r with
  | none => exact noItem_setBitrate s b r
  | some raw =>
    dsimp only
    cases decode raw with
    | ok i => exact exec_setBitrate i s b
    | error e => exact rejected_setBitrate e s b

theorem step_setBitrate (s : State) (b : Int) : AgreeUpToBitrate (step s) (step (s.setBitrate b)) := by
  unfold step
  simp only [State.setBitrate_seq, State.setBitrate_pending, seqStep_setBitrate]
  split
  · split
    · exact .next s b
    · exact runRequest_setBitrate _ _ b
  · exact .next _ b

/-- Settles O58: a step agrees up to BITRATE with the step of the block that holds another one. -/
theorem bitrateIsNeverRead : Obligations.BitrateIsNeverRead :=
  fun s b => (step_setBitrate s b).next_refused

end Sys2Proof.Machine
end

section
/-! SUPPORT. The values after reset and the packed view of a slot (10_state.md R12, R24). -/

namespace Sys2Proof.Machine

/-- Every slot is zero after reset (R24). -/
@[simp] theorem RegFile.zero_get (k : Fin 3) : RegFile.zero.get k = .zero := by
  match k with
  | 0 => rfl
  | 1 => rfl
  | 2 => rfl

/-- An accessor with a slot's number as its index hands back that slot's value (43_target_regfile.md R126). -/
theorem readSlot_val (k : Fin 3) (value : Target → Result) (s : State) :
    readSlot k.val value s = .next (s.setResult (value (s.tgt.get k))) := by
  simp only [readSlot, (slotOf_eq_some k.val k).mpr rfl]

/-- An accessor after reset reads a slot of zeros (R24). -/
theorem readSlot_reset (k : Fin 3) (value : Target → Result) :
    readSlot k.val value State.reset = .next (State.reset.setResult (value .zero)) := by
  rw [readSlot_val, show State.reset.tgt = .zero from rfl, RegFile.zero_get]

/-- Settles O1: every accessor reads a slot of zeros. -/
theorem resetValues : Obligations.ResetValues :=
  ⟨rfl, rfl, rfl, fun k =>
    ⟨readSlot_reset k (fun t => .signed t.x), readSlot_reset k (fun t => .signed t.y),
      readSlot_reset k (fun t => .signed t.speed), readSlot_reset k (fun t => .unsigned t.resolution)⟩⟩

/-- Settles O26: a field lies above the fields before it, which its offset skips one by one. -/
theorem packedSlotLayout : Obligations.PackedSlotLayout := by
  intro t
  unfold Target.packed
  refine ⟨BitVec.extractLsb'_append_eq_right, ?_, ?_, ?_⟩
  · rw [BitVec.extractLsb'_append_eq_of_le (by decide)]
    exact BitVec.extractLsb'_append_eq_right
  · rw [BitVec.extractLsb'_append_eq_of_le (by decide), BitVec.extractLsb'_append_eq_of_le (by decide)]
    exact BitVec.extractLsb'_append_eq_right
  · rw [BitVec.extractLsb'_append_eq_of_le (by decide), BitVec.extractLsb'_append_eq_of_le (by decide)]
    exact BitVec.extractLsb'_append_eq_left

end Sys2Proof.Machine

namespace Sys2Proof.Safety

open Sys2Proof.Machine

/-- Settles O54: the state after reset is one concrete state, and the invariant is evaluated on it. -/
theorem resetMeetsInvariant : Obligations.ResetMeetsInvariant := by
  unfold Obligations.ResetMeetsInvariant
  decide

end Sys2Proof.Safety
end

section
/-! SUPPORT. The buffer read primitive after a fill, and the byte order of a field (20_memory.md R33, R35). -/

namespace Sys2Proof.Machine

/-! ### Reads of a REFRESH's inputs (R33) -/

/-- A received byte is read as it came. -/
theorem inputByte_of_getElem? {rx : List Byte} {j : Nat} {b : Byte} (tail : Nat → Byte) (h : rx[j]? = some b) :
    inputByte rx tail j = b := by
  simp only [inputByte, h]

/-- From the end of the received bytes on, the tail is read. -/
theorem inputByte_of_length_le {rx : List Byte} {j : Nat} (tail : Nat → Byte) (h : rx.length ≤ j) :
    inputByte rx tail j = tail j := by
  simp only [inputByte, List.getElem?_eq_none h]

/-- The tail at a listed position. -/
theorem tailByte_of_lookup {s : State} {j : Nat} {b : Byte} (h : s.tail.lookup j = some b) : tailByte s j = b := by
  simp only [tailByte, h]

/-- The tail at a position that is not listed is free. -/
theorem tailByte_of_lookup_none {s : State} {j : Nat} (h : s.tail.lookup j = none) :
    tailByte s j = Config.freeByte s.draws j := by
  simp only [tailByte, h]

/-- The row FILL of the sequencer, for at least one byte (40_frame_sync.md R70, R71, R72). -/
theorem seqStep_of_fill {s : State} (hq : s.seq = .fill) (hrx : s.rx ≠ []) :
    seqStep s = ((fillBuf s).setI 0).setSeq .test := by
  simp [seqStep, hq, hrx]

/-- `B(j)` after the row FILL: the inputs of the REFRESH, read at `j`. -/
theorem bufByte_seqStep_of_fill {s : State} (hq : s.seq = .fill) (hrx : s.rx ≠ []) (j : Nat) :
    bufByte (seqStep s) j = inputByte s.rx (tailByte s) j := by
  rw [seqStep_of_fill hq hrx]
  exact fillBuf_bufByte s j

/-- Settles O13: after the fill the buffer reads as the inputs do, and the tail as listed or free. -/
theorem bufferReadPrimitive : Obligations.BufferReadPrimitive := by
  intro s j hq hrx
  rw [bufByte_seqStep_of_fill hq hrx]
  refine ⟨fun b hb => inputByte_of_getElem? _ hb, fun hj => ?_⟩
  rw [inputByte_of_length_le _ hj]
  exact ⟨fun b hb => tailByte_of_lookup hb, tailByte_of_lookup_none⟩

/-! ### The byte order of a field (R35) -/

/-- The sign bit of a field is that of its byte at the higher offset. -/
theorem le16_msb (lo hi : Byte) : (le16 lo hi).msb = hi.msb :=
  BitVec.msb_append.trans (if_neg (by decide))

/-- Settles O14: `B2(j)` puts two bytes together, low byte first. -/
theorem fieldByteOrder : Obligations.FieldByteOrder :=
  fun s j => ⟨le16_toNat (bufByte s j) (bufByte s (j + 1)), le16_msb (bufByte s j) (bufByte s (j + 1))⟩

end Sys2Proof.Machine
end

section
/-! SUPPORT. A REFRESH computes the scan function of its inputs, and the scan function processes its matches one after the
other (40_frame_sync.md R79, R82). -/

namespace Sys2Proof.Machine

/-! ### The slots after the processing of one match (R76) -/

section StoreMatch

variable (rx : List Byte) (tail : Nat → Byte) (i : Nat) (r : RegFile)

/-- What the loop of R82 makes of the register file at a match. -/
def storeMatch : RegFile := storeRecord rx tail i 2 (storeRecord rx tail i 1 (storeRecord rx tail i 0 r))

theorem storeRecord_get_same (k : Fin 3) :
    (storeRecord rx tail i k r).get k =
      if i + 4 + 8 * k.val + 8 ≤ rx.length then inputTarget rx tail (i + 4 + 8 * k.val) else r.get k := by
  unfold storeRecord
  split
  · exact RegFile.get_set_same r k _
  · rfl

theorem storeRecord_get_other {j k : Fin 3} (h : j ≠ k) : (storeRecord rx tail i k r).get j = r.get j := by
  unfold storeRecord
  split
  · exact RegFile.get_set_other r _ h
  · rfl

/-- Slot by slot: the record of the match where it fits, the old value elsewhere (42_field_extract.md R107). -/
theorem storeMatch_get (k : Fin 3) :
    (storeMatch rx tail i r).get k =
      if i + 4 + 8 * k.val + 8 ≤ rx.length then inputTarget rx tail (i + 4 + 8 * k.val) else r.get k := by
  unfold storeMatch
  match k with
  | 0 =>
    rw [storeRecord_get_other _ _ _ _ (by decide), storeRecord_get_other _ _ _ _ (by decide)]
    exact storeRecord_get_same rx tail i r 0
  | 1 =>
    rw [storeRecord_get_other _ _ _ _ (by decide), storeRecord_get_same,
      storeRecord_get_other _ _ _ _ (by decide)]
  | 2 =>
    rw [storeRecord_get_same, storeRecord_get_other _ _ _ _ (by decide),
      storeRecord_get_other _ _ _ _ (by decide)]

end StoreMatch

/-! ### The loop of R82, turn by turn -/

section Turns

variable {rx : List Byte} {tail : Nat → Byte} {i : Nat}

theorem scanFrom_of_sig (fuel : Nat) (r : RegFile) (hi : i < rx.length) (h : inputSig rx tail i = true) :
    scanFrom rx tail (fuel + 1) i r = scanFrom rx tail fuel (i + 30) (storeMatch rx tail i r) := by
  simp only [scanFrom, hi, h, if_true, storeMatch]

theorem scanFrom_of_not_sig (fuel : Nat) (r : RegFile) (hi : i < rx.length) (h : inputSig rx tail i = false) :
    scanFrom rx tail (fuel + 1) i r = scanFrom rx tail fuel (i + 1) r := by
  simp [scanFrom, hi, h]

theorem scanFrom_of_length_le (fuel : Nat) (r : RegFile) (hi : rx.length ≤ i) : scanFrom rx tail fuel i r = r := by
  cases fuel with
  | zero => rfl
  | succ fuel => simp [scanFrom, hi]

theorem matchesFrom_of_sig (fuel : Nat) (hi : i < rx.length) (h : inputSig rx tail i = true) :
    matchesFrom rx tail (fuel + 1) i = i :: matchesFrom rx tail fuel (i + 30) := by
  simp only [matchesFrom, hi, h, if_true]

theorem matchesFrom_of_not_sig (fuel : Nat) (hi : i < rx.length) (h : inputSig rx tail i = false) :
    matchesFrom rx tail (fuel + 1) i = matchesFrom rx tail fuel (i + 1) := by
  simp [matchesFrom, hi, h]

theorem matchesFrom_of_length_le (fuel : Nat) (hi : rx.length ≤ i) : matchesFrom rx tail fuel i = [] := by
  cases fuel with
  | zero => rfl
  | succ fuel => simp [matchesFrom, hi]

end Turns

/-- The scan function processes the matches one after the other, and nothing between them. -/
theorem scanFrom_eq_foldl (rx : List Byte) (tail : Nat → Byte) (fuel i : Nat) (r : RegFile) :
    scanFrom rx tail fuel i r = (matchesFrom rx tail fuel i).foldl (fun q m => storeMatch rx tail m q) r := by
  fun_induction scanFrom rx tail fuel i r with
  | case1 => rfl
  | case2 fuel i r hi h ih =>
    rw [ih, Nat.succ_eq_add_one, matchesFrom_of_sig fuel hi h, List.foldl_cons]
    rfl
  | case3 fuel i r hi h ih =>
    rw [ih, Nat.succ_eq_add_one, matchesFrom_of_not_sig fuel hi (Bool.eq_false_of_not_eq_true h)]
  | case4 fuel i r hi => rw [matchesFrom_of_length_le _ (Nat.le_of_not_lt hi), List.foldl_nil]

/-! ### The scan of the block computes the scan function -/

/-- The buffer of `s` reads, at every position, as the inputs `rx` and `tail` do (20_memory.md R33). -/
structure ReadsInput (s : State) (rx : List Byte) (tail : Nat → Byte) : Prop where
  len : s.len = rx.length
  byte : ∀ j, bufByte s j = inputByte rx tail j

namespace ReadsInput

variable {s : State} {rx : List Byte} {tail : Nat → Byte}

theorem setI (h : ReadsInput s rx tail) (i : Nat) : ReadsInput (s.setI i) rx tail := ⟨h.len, h.byte⟩

theorem setTgt (h : ReadsInput s rx tail) (r : RegFile) : ReadsInput (s.setTgt r) rx tail := ⟨h.len, h.byte⟩

theorem sig_eq (h : ReadsInput s rx tail) (i : Nat) : sig s i = inputSig rx tail i := by
  simp only [sig, hdrCmp, ftrCmp, h.byte, inputSig, Bool.and_assoc]

/-- RECDEC of the record at an offset of the buffer (42_field_extract.md R105). -/
theorem recDec_recordAt (h : ReadsInput s rx tail) (o : Nat) : recDec (recordAt s o) = inputTarget rx tail o := by
  simp only [recDec, recordAt, bufHalf, h.byte, inputTarget, inputHalf, udec]

theorem recDec_payloadAt (h : ReadsInput s rx tail) (i : Nat) (k : Fin 3) :
    recDec (recordOf (payloadAt s i) k) = inputTarget rx tail (i + 4 + 8 * k.val) := by
  match k with
  | 0 => exact h.recDec_recordAt (recOff i 0)
  | 1 => exact h.recDec_recordAt (recOff i 1)
  | 2 => exact h.recDec_recordAt (recOff i 2)

theorem matchTgt_eq (h : ReadsInput s rx tail) (i : Nat) (r : RegFile) :
    matchTgt (payloadAt s i) i s.len r = storeMatch rx tail i r := by
  refine RegFile.ext_get fun k => ?_
  rw [matchTgt_get, storeMatch_get, h.recDec_payloadAt, h.len]
  exact if_congr decide_eq_true_iff rfl rfl

/-- The scan loop of the block, turn by turn, is the loop of R82. -/
theorem scanLoop_tgt (h : ReadsInput s rx tail) (fuel : Nat) :
    (scanLoop fuel s).tgt = scanFrom rx tail fuel s.i s.tgt := by
  induction fuel generalizing s with
  | zero => rfl
  | succ fuel ih =>
    unfold scanLoop
    rw [h.len]
    split
    · next hi =>
      cases hs : sig s s.i with
      | true =>
        rw [scanTurn_of_sig hs, processMatch_eq, h.matchTgt_eq, ih ((h.setTgt _).setI _),
          scanFrom_of_sig fuel _ hi ((h.sig_eq s.i).symm.trans hs)]
        rfl
      | false =>
        rw [scanTurn_of_not_sig hs, scanFrom_of_not_sig fuel _ hi ((h.sig_eq s.i).symm.trans hs)]
        exact ih (h.setI (s.i + 1))
    · next hi => exact (scanFrom_of_length_le _ s.tgt (Nat.le_of_not_lt hi)).symm

end ReadsInput

theorem readsInput_fillBuf_accept (s : State) : ReadsInput (fillBuf (accept s)) (nextRx s) (nextTail s) :=
  ⟨rfl, bufByte_fillBuf_accept s⟩

/-- The register file after a REFRESH is `scan(TGT, rx, tail)` (R82). -/
theorem runRefresh_tgt_eq_scan (s : State) : (runRefresh s).tgt = scan s.tgt (nextRx s) (nextTail s) :=
  (runRefresh_tgt s).trans (((readsInput_fillBuf_accept s).setI 0).scanLoop_tgt (nextRx s).length)

/-- A REFRESH processes its matches one after the other. -/
theorem runRefresh_tgt_eq_foldl (s : State) :
    (runRefresh s).tgt =
      (scanMatches (nextRx s) (nextTail s)).foldl (fun r i => storeMatch (nextRx s) (nextTail s) i r) s.tgt :=
  (runRefresh_tgt_eq_scan s).trans (scanFrom_eq_foldl _ _ _ _ _)

end Sys2Proof.Machine
end

section
/-! SUPPORT. The order of the matches, and which of them a slot holds the record of (20_memory.md R41, 40_frame_sync.md R79). -/

namespace Sys2Proof.Machine

variable (rx : List Byte) (tail : Nat → Byte)

/-- No match lies before the offset the scan starts from. -/
theorem le_of_mem_matchesFrom {fuel i j : Nat} (hj : j ∈ matchesFrom rx tail fuel i) : i ≤ j := by
  fun_induction matchesFrom rx tail fuel i with
  | case1 => cases hj
  | case2 fuel i hi h ih =>
    rcases List.mem_cons.mp hj with rfl | hj
    · exact Nat.le_refl j
    · exact Nat.le_trans (Nat.le_add_right i 30) (ih hj)
  | case3 fuel i hi h ih => exact Nat.le_of_succ_le (ih hj)
  | case4 => cases hj

/-- After a match the scan goes on behind its window, so the matched windows do not overlap (R79). -/
theorem pairwise_matchesFrom (fuel i : Nat) : (matchesFrom rx tail fuel i).Pairwise (fun i j => i + 30 ≤ j) := by
  fun_induction matchesFrom rx tail fuel i with
  | case1 => exact .nil
  | case2 fuel i hi h ih => exact .cons (fun j hj => le_of_mem_matchesFrom rx tail hj) ih
  | case3 fuel i hi h ih => exact ih
  | case4 => exact .nil

/-- After matches processed one after the other, a slot holds the record of the last one that fits for it. -/
theorem foldl_storeMatch_get (l : List Nat) (r : RegFile) (k : Fin 3) :
    (l.foldl (fun q m => storeMatch rx tail m q) r).get k =
      match (l.filter (fun i => decide (i + 4 + 8 * k.val + 8 ≤ rx.length))).getLast? with
      | some i => inputTarget rx tail (i + 4 + 8 * k.val)
      | none => r.get k := by
  induction l using List.reverseRecOn with
  | nil => rfl
  | append_singleton l i ih =>
    rw [List.foldl_append, List.foldl_cons, List.foldl_nil, storeMatch_get, List.filter_append]
    by_cases hfit : i + 4 + 8 * k.val + 8 ≤ rx.length
    · simp [hfit]
    · simp only [hfit, if_false, ih, List.filter_cons, List.filter_nil, decide_false, Bool.false_eq_true,
        List.append_nil]

/-- Settles O44: a REFRESH processes its matches in rising order, and each overwrites the slots it has a record for. -/
theorem lastFittingMatchWins : Obligations.LastFittingMatchWins := by
  intro s k hst
  refine ⟨runRefresh s, exec_refresh_started hst, ?_, ?_⟩
  · exact (pairwise_matchesFrom _ _ _ _).imp (fun h => by omega)
  · rw [runRefresh_tgt_eq_foldl]
    exact foldl_storeMatch_get _ _ _ _ _

end Sys2Proof.Machine
end

section
/-! SUPPORT. A whole frame in the inputs of a REFRESH: its signature and its records at its offset, and the scan over the bytes
before it (20_memory.md R36, 40_frame_sync.md R76, R80). -/

namespace Sys2Proof.Machine

/-! ### Inputs behind other bytes -/

section Append

variable (pre bs : List Byte) (tail : Nat → Byte)

/-- Behind `pre` the inputs read as those without `pre` do, with the tail moved along. -/
theorem inputByte_append (j : Nat) :
    inputByte (pre ++ bs) tail (pre.length + j) = inputByte bs (fun n => tail (pre.length + n)) j := by
  simp only [inputByte, List.getElem?_append_right (Nat.le_add_right pre.length j), Nat.add_sub_cancel_left]

theorem inputSig_append (i : Nat) :
    inputSig (pre ++ bs) tail (pre.length + i) = inputSig bs (fun n => tail (pre.length + n)) i := by
  simp only [inputSig, Nat.add_assoc, inputByte_append]

theorem inputTarget_append (o : Nat) :
    inputTarget (pre ++ bs) tail (pre.length + o) = inputTarget bs (fun n => tail (pre.length + n)) o := by
  simp only [inputTarget, inputHalf, Nat.add_assoc, inputByte_append]

end Append

/-! ### A frame at the start of the inputs -/

section Frame

variable {p : Payload} {bs : List Byte} (tail : Nat → Byte)

@[simp] theorem encodeFrame_length (p : Payload) : (encodeFrame p).length = 30 := rfl

/-- A frame carries the signature at its offset (30_encoding.md R51). -/
theorem inputSig_of_frame (h : encodeFrame p <+: bs) : inputSig bs tail 0 = true := by
  obtain ⟨post, rfl⟩ := h
  rfl

/-- The bytes of a record decode to it, wherever they stand (30_encoding.md R53). -/
theorem inputTarget_record (pre : List Byte) (r : RawRecord) (post : List Byte) :
    inputTarget (pre ++ (encodeRecord r ++ post)) tail pre.length = recDec r := by
  refine (inputTarget_append pre _ tail 0).trans ?_
  simp [inputTarget, inputHalf, inputByte, encodeRecord, encodeField, recDec, udec]

/-- Each record of a frame decodes to that record of its payload (30_encoding.md R51). -/
theorem inputTarget_of_frame (h : encodeFrame p <+: bs) (k : Fin 3) :
    inputTarget bs tail (4 + 8 * k.val) = recDec (recordOf p k) := by
  obtain ⟨post, rfl⟩ := h
  match k with
  | 0 =>
    exact inputTarget_record tail Wire.header p.rec0 (encodeRecord p.rec1 ++ encodeRecord p.rec2 ++ Wire.footer ++ post)
  | 1 =>
    exact inputTarget_record tail (Wire.header ++ encodeRecord p.rec0) p.rec1 (encodeRecord p.rec2 ++ Wire.footer ++ post)
  | 2 =>
    exact inputTarget_record tail (Wire.header ++ encodeRecord p.rec0 ++ encodeRecord p.rec1) p.rec2 (Wire.footer ++ post)

/-- A match at a whole frame, at any offset, leaves the records of its payload in the slots (R76). -/
theorem storeMatch_of_frame (pre : List Byte) (h : encodeFrame p <+: bs) (r : RegFile) :
    storeMatch (pre ++ bs) tail pre.length r = ⟨recDec p.rec0, recDec p.rec1, recDec p.rec2⟩ := by
  have hlen : 30 ≤ bs.length := h.length_le
  refine RegFile.ext_get fun k => ?_
  have hk := k.isLt
  have hfit : pre.length + 4 + 8 * k.val + 8 ≤ (pre ++ bs).length := by
    rw [List.length_append]
    omega
  rw [storeMatch_get, if_pos hfit, Nat.add_assoc, inputTarget_append, inputTarget_of_frame _ h]
  match k with
  | 0 => rfl
  | 1 => rfl
  | 2 => rfl

end Frame

/-! ### The scan over bytes without the signature -/

/-- There is no signature where the received byte is not `AA` (R74). -/
theorem inputSig_of_ne {rx : List Byte} {i : Nat} {b : Byte} (tail : Nat → Byte) (hb : rx[i]? = some b) (hne : b ≠ 0xAA) :
    inputSig rx tail i = false := by
  simp only [inputSig, inputByte_of_getElem? tail hb, beq_false_of_ne hne, Bool.false_and]

/-- Offsets without the signature are passed one by one, each for one turn (R77, R80). -/
theorem matchesFrom_skip {rx : List Byte} {tail : Nat → Byte} (n : Nat) {fuel i : Nat} (hlen : i + n ≤ rx.length)
    (hno : ∀ j, i ≤ j → j < i + n → inputSig rx tail j = false) :
    matchesFrom rx tail (n + fuel) i = matchesFrom rx tail fuel (i + n) := by
  induction n generalizing i with
  | zero => rw [Nat.zero_add, Nat.add_zero]
  | succ n ih =>
    rw [Nat.succ_add, matchesFrom_of_not_sig _ (by omega) (hno i (by omega) (by omega)),
      ih (by omega) (fun j hj hj' => hno j (by omega) (by omega)), Nat.add_assoc, Nat.add_comm 1 n]

/-- Behind bytes without `AA` a whole frame is the only match, where nothing comes after it (20_memory.md R36). -/
theorem scanMatches_noise_frame (noise : List Byte) (p : Payload) (tail : Nat → Byte) (hnoise : (0xAA : Byte) ∉ noise) :
    scanMatches (noise ++ encodeFrame p) tail = [noise.length] := by
  have hlen : (noise ++ encodeFrame p).length = noise.length + 30 := by simp
  have hskip : ∀ j, 0 ≤ j → j < 0 + noise.length → inputSig (noise ++ encodeFrame p) tail j = false := by
    intro j _ hj
    rw [Nat.zero_add] at hj
    refine inputSig_of_ne tail (b := noise[j]) ?_ (fun he => hnoise (he ▸ List.getElem_mem hj))
    rw [List.getElem?_append_left hj, List.getElem?_eq_getElem hj]
  have hsig : inputSig (noise ++ encodeFrame p) tail noise.length = true :=
    (inputSig_append noise _ tail 0).trans (inputSig_of_frame _ List.prefix_rfl)
  rw [scanMatches, hlen, matchesFrom_skip noise.length (by omega) hskip, Nat.zero_add,
    matchesFrom_of_sig 29 (by omega) hsig, matchesFrom_of_length_le 29 (by omega)]

/-- Settles O49: the scan passes the noise, matches the frame, and stores its three records. -/
theorem frameAfterNoiseIsDecoded : Obligations.FrameAfterNoiseIsDecoded := by
  intro s noise p hst hnoise hrx
  refine ⟨runRefresh s, exec_refresh_started hst, ?_, ?_⟩
  · rw [runRefresh_tgt_eq_foldl, hrx, scanMatches_noise_frame noise p _ hnoise]
    exact storeMatch_of_frame _ noise List.prefix_rfl _
  · have hdata : 1 ≤ (noise ++ encodeFrame p).length := by simp
    rw [runRefresh_result, hrx, refreshResult, decide_eq_true hdata]

end Sys2Proof.Machine
end

section
/-! SUPPORT. The decoder and the encoder, part by part: a part of a wire item decodes to exactly the value it is the encoding of
(30_encoding.md R51, R53 to R55), and with it every instruction; the host's selectors (R60); match and mask (R52). -/

namespace Sys2Proof

open Sys2Proof.Machine

/-! ### Fields and records (R53 to R55) -/

theorem decodeField_eq_some {bs : List Byte} {v : U16} : decodeField bs = some v ↔ bs = encodeField v := by
  constructor
  · intro h
    unfold decodeField at h
    split at h
    · cases h
      simp [encodeField]
    · cases h
  · rintro rfl
    simp [decodeField, encodeField]

theorem decodeRecord_eq_some {bs : List Byte} {r : RawRecord} : decodeRecord bs = some r ↔ bs = encodeRecord r := by
  constructor
  · intro h
    unfold decodeRecord at h
    split at h
    · cases h
      simp [encodeRecord, encodeField]
    · cases h
  · rintro rfl
    simp [decodeRecord, encodeRecord, encodeField]

/-! ### Frames (R51) -/

/-- The records of a payload are encoded at the frame offsets 4, 12 and 20. -/
theorem decodePayload_eq_some {bs : List Byte} {p : Payload} :
    decodePayload bs = some p ↔
      (bs.drop 4).take 8 = encodeRecord p.rec0 ∧ (bs.drop 12).take 8 = encodeRecord p.rec1 ∧
        (bs.drop 20).take 8 = encodeRecord p.rec2 := by
  simp only [← decodeRecord_eq_some]
  unfold decodePayload
  constructor
  · intro h
    split at h
    · next h0 h1 h2 => cases h; exact ⟨h0, h1, h2⟩
    · cases h
  · rintro ⟨h0, h1, h2⟩
    simp only [h0, h1, h2]

/-- The `m` bytes from offset `n` on, and what comes behind them. -/
theorem take_drop_append_drop (bs : List Byte) (n m : Nat) : (bs.drop n).take m ++ bs.drop (n + m) = bs.drop n := by
  rw [← List.drop_drop, List.take_append_drop]

/-- The parts of a frame, cut at the offsets of R51 and put together again. -/
theorem append_frame_parts (bs : List Byte) :
    bs.take 4 ++ (bs.drop 4).take 8 ++ (bs.drop 12).take 8 ++ (bs.drop 20).take 8 ++ bs.drop 28 = bs := by
  have h20 := take_drop_append_drop bs 20 8
  have h12 := take_drop_append_drop bs 12 8
  have h4 := take_drop_append_drop bs 4 8
  rw [List.append_assoc, h20, List.append_assoc, h12, List.append_assoc, h4, List.take_append_drop]

/-- What decodes as a frame is the frame of some payload, byte by byte, and decodes to its records. -/
theorem decodeFrame_eq_ok {bs : List Byte} {i : Instr} :
    decodeFrame bs = .ok i ↔ ∃ p : Payload, i = .dataReport p.rec0 p.rec1 p.rec2 ∧ bs = encodeFrame p := by
  constructor
  · intro h
    unfold decodeFrame at h
    split at h
    · next p hp =>
      obtain ⟨h0, h1, h2⟩ := decodePayload_eq_some.mp hp
      split at h
      · split at h
        · next hmagic =>
          cases h
          refine ⟨p, rfl, ?_⟩
          rw [← append_frame_parts bs, hmagic.1, hmagic.2, h0, h1, h2, encodeFrame]
        · cases h
      · cases h
    · cases h
  · rintro ⟨p, rfl, rfl⟩
    have hp : decodePayload (encodeFrame p) = some p := decodePayload_eq_some.mpr ⟨rfl, rfl, rfl⟩
    simp only [decodeFrame, hp, encodeFrame_length, if_true]
    exact if_pos ⟨rfl, rfl⟩

/-! ### From the encoding back to the instruction -/

@[simp] theorem decode_encode (i : Instr) : decode (encode i) = .ok i := by
  cases i with
  | dataReport r0 r1 r2 => exact decodeFrame_eq_ok.mpr ⟨⟨r0, r1, r2⟩, rfl, rfl⟩
  | record r => simp only [encode, decode, decodeRecord_eq_some.mpr rfl]
  | smField v => simp only [encode, decode, decodeField_eq_some.mpr rfl]
  | uField v => simp only [encode, decode, decodeField_eq_some.mpr rfl]
  | begin b => rfl
  | refresh => rfl
  | getX k => rfl
  | getY k => rfl
  | getSpeed k => rfl
  | getRes k => rfl

/-- Settles O9: the parts of a wire item come back from their encodings, and a selector names its operation. -/
theorem decodeEncodeRoundTrip : Obligations.DecodeEncodeRoundTrip :=
  fun i _ => decode_encode i

theorem decode_of_encode_eq {i : Instr} {raw : RawItem} (h : encode i = raw) : decode raw = .ok i :=
  h ▸ decode_encode i

/-- Settles O7: each item is, byte by byte, the encoding of what it stands for. -/
theorem writtenWordsDecode : Obligations.WrittenWordsDecode :=
  ⟨decode_of_encode_eq (by decide), decode_of_encode_eq (by decide), decode_of_encode_eq (by decide),
    decode_of_encode_eq (by decide), decode_of_encode_eq rfl, decode_of_encode_eq rfl⟩

/-! ### From the instruction back to the encoding -/

/-- A host item that decodes is an encoding, or REFRESH with an operand that it does not take (R60). -/
theorem decode_host_eq_ok {op : BitVec 3} {arg : Int} {i : Instr} (h : decode (.host op arg) = .ok i) :
    encode i = .host op arg ∨ (i = .refresh ∧ op = 1) := by
  match op with
  | 0 => cases h; exact .inl rfl
  | 1 => cases h; exact .inr ⟨rfl, rfl⟩
  | 2 => cases h; exact .inl rfl
  | 3 => cases h; exact .inl rfl
  | 4 => cases h; exact .inl rfl
  | 5 => cases h; exact .inl rfl
  | 6 => cases h
  | 7 => cases h

theorem decode_wire_eq_ok {fmt : WireFormat} {bs : List Byte} {i : Instr} (h : decode (.wire fmt bs) = .ok i) :
    encode i = .wire fmt bs := by
  cases fmt with
  | frame30 =>
    obtain ⟨p, rfl, rfl⟩ := decodeFrame_eq_ok.mp h
    rfl
  | rec8 | sm16 | u16 =>
    simp only [decode] at h
    split at h
    · next hv =>
      cases h
      simp only [decodeRecord_eq_some, decodeField_eq_some] at hv
      rw [hv, encode]
    · cases h

/-- Only REFRESH is encoded as selector 1. -/
theorem eq_host_one_of_encode_refresh {i : Instr} {raw : RawItem} (h : encode i = raw) (hi : i = .refresh) :
    ∃ arg, raw = .host 1 arg := by
  subst hi
  exact ⟨0, h.symm⟩

/-- Settles O10: a wire item that decodes is an encoding; so is a host item, or it is REFRESH with some operand. -/
theorem encodeDecodeRoundTrip : Obligations.EncodeDecodeRoundTrip := by
  intro raw i h
  cases raw with
  | host op arg =>
    rcases decode_host_eq_ok h with he | ⟨rfl, rfl⟩
    · exact ⟨fun _ => he, eq_host_one_of_encode_refresh he⟩
    · exact ⟨fun hne => absurd rfl hne, fun _ => ⟨arg, rfl⟩⟩
  | wire fmt bs =>
    have he := decode_wire_eq_ok h
    exact ⟨fun _ => he, eq_host_one_of_encode_refresh he⟩

/-! ### The host's selectors (R60) -/

/-- Settles O8, selector by selector. -/
theorem hostSelectors : Obligations.HostSelectors := by
  intro op arg
  match op with
  | 0 => rfl
  | 1 => rfl
  | 2 => rfl
  | 3 => rfl
  | 4 => rfl
  | 5 => rfl
  | 6 => rfl
  | 7 => rfl

theorem decode_host_of_ok {op : BitVec 3} {arg : Int} {h : HostOp} (hd : decodeHost op arg = .ok h) :
    decode (.host op arg) = .ok h.toInstr := by
  simp only [decode, hd]

theorem selector_of_six_le {op : BitVec 3} : 6 ≤ op.toNat → op = 6 ∨ op = 7 := by
  revert op
  decide

/-! ### Match and mask (R52) -/

/-- A run of equal mask bytes acts on each byte by itself. -/
theorem zipWith_and_replicate {bs : List Byte} {n : Nat} (m : Byte) (h : bs.length = n) :
    List.zipWith (· &&& ·) bs (List.replicate n m) = bs.map (· &&& m) := by
  subst h
  induction bs with
  | nil => rfl
  | cons b bs ih => rw [List.length_cons, List.replicate_succ, List.zipWith_cons_cons, ih, List.map_cons]

theorem zipWith_and_ones {bs : List Byte} {n : Nat} (h : bs.length = n) :
    List.zipWith (· &&& ·) bs (List.replicate n 0xFF) = bs :=
  (zipWith_and_replicate 0xFF h).trans (List.map_id'' (fun _ => BitVec.and_allOnes) bs)

theorem zipWith_and_zeros {bs : List Byte} {n : Nat} (h : bs.length = n) :
    List.zipWith (· &&& ·) bs (List.replicate n 0x00) = List.replicate n (0x00 : Byte) := by
  subst h
  exact (zipWith_and_replicate 0x00 rfl).trans (List.map_eq_replicate_iff.mpr fun _ _ => BitVec.and_zero)

/-- The mask keeps the magics and clears the payload. -/
theorem masked_eq {w : List Byte} (h : w.length = 30) :
    Wire.masked w = w.take 4 ++ List.replicate 24 0x00 ++ w.drop 28 := by
  have hcut : w.take 4 ++ (w.drop 4).take 24 ++ w.drop 28 = w := by
    rw [List.append_assoc, take_drop_append_drop w 4 24, List.take_append_drop]
  have hheader : (w.take 4).length = 4 := by simp [h]
  have hpayload : ((w.drop 4).take 24).length = 24 := by simp [h]
  have hfooter : (w.drop 28).length = 2 := by simp [h]
  conv_lhs => rw [← hcut]
  rw [Wire.masked, Wire.mask, List.zipWith_append (by simp [h]), List.zipWith_append (by simp [h]),
    zipWith_and_ones hheader, zipWith_and_zeros hpayload, zipWith_and_ones hfooter]

/-- The test of R52 is the comparison of the six magic bytes. -/
theorem masked_eq_pattern {w : List Byte} (h : w.length = 30) :
    Wire.masked w = Wire.pattern ↔ w.take 4 = Wire.header ∧ w.drop 28 = Wire.footer := by
  have hfooter : (w.drop 28).length = Wire.footer.length := by simp [h, Wire.footer]
  rw [masked_eq h, Wire.pattern]
  constructor
  · intro he
    obtain ⟨hl, hr⟩ := List.append_inj' he hfooter
    exact ⟨List.append_inj_left' hl rfl, hr⟩
  · rintro ⟨hl, hr⟩
    rw [hl, hr]

theorem decodeRecord_of_length {bs : List Byte} (h : bs.length = 8) : ∃ r, decodeRecord bs = some r := by
  match bs, h with
  | [_, _, _, _, _, _, _, _], _ => exact ⟨_, rfl⟩

/-- Any thirty bytes hold three records: the payload is never looked at (R58). -/
theorem decodePayload_of_length {w : List Byte} (h : w.length = 30) : ∃ p, decodePayload w = some p := by
  obtain ⟨r0, h0⟩ := decodeRecord_of_length (bs := (w.drop 4).take 8) (by simp [h])
  obtain ⟨r1, h1⟩ := decodeRecord_of_length (bs := (w.drop 12).take 8) (by simp [h])
  obtain ⟨r2, h2⟩ := decodeRecord_of_length (bs := (w.drop 20).take 8) (by simp [h])
  exact ⟨⟨r0, r1, r2⟩, by simp only [decodePayload, h0, h1, h2]⟩

/-- The decoder on thirty bytes: match and mask alone decide. -/
theorem decodeFrame_of_length {w : List Byte} (h : w.length = 30) :
    ∃ p : Payload, decodeFrame w =
      if Wire.masked w = Wire.pattern then .ok (.dataReport p.rec0 p.rec1 p.rec2) else .error .notAFrame := by
  obtain ⟨p, hp⟩ := decodePayload_of_length h
  refine ⟨p, ?_⟩
  simp only [decodeFrame, hp, h, if_true, masked_eq_pattern h]

/-- Settles O11: the decoder's comparison of the magics is the test by match and mask. -/
theorem frameMatchAndMask : Obligations.FrameMatchAndMask := by
  intro w hw
  obtain ⟨p, hp⟩ := decodeFrame_of_length hw
  exact ⟨fun hm => ⟨p.rec0, p.rec1, p.rec2, hp.trans (if_pos hm)⟩, fun hm => hp.trans (if_neg hm)⟩

end Sys2Proof
end

section
/-! SUPPORT. The step of an idle block on the request it takes: a host operation by its selector (30_encoding.md R60), and one field
of a record (R56). -/

namespace Sys2Proof.Machine

theorem step_of_request {s : State} {r : Request} {rest : List Request} (hq : s.seq = .idle)
    (hp : s.pending = r :: rest) : step s = runRequest r (s.setPending rest) := by
  simp only [step, hq, hp]

theorem runRequest_of_decode {s : State} {r : Request} {raw : RawItem} {i : Instr} (hf : fetch s r = some raw)
    (hd : decode raw = .ok i) : runRequest r s = exec i s := by
  simp only [runRequest, hf, hd]

/-- Settles O4: the item of a host request is its selector and operand, and the selectors 6 and 7 are refused. -/
theorem stepRunsHostOperation : Obligations.StepRunsHostOperation := by
  intro s op arg rest hq hp
  rw [step_of_request hq hp]
  refine ⟨fun h hd => runRequest_of_decode rfl (decode_host_of_ok hd), fun hop => ?_⟩
  rcases selector_of_six_le hop with rfl | rfl
  · rfl
  · rfl

/-- Settles O21: the two bytes at the field's offset are fetched, and the field's format says how they are decoded. -/
theorem stepExtractsField : Obligations.StepExtractsField := by
  intro s k f rest hq hp hfit
  have hfetch : fetch (s.setPending rest) (.field k f) =
      some (.wire f.format (window (s.setPending rest) (recOff s.i k + f.offset) 2)) := if_pos hfit
  rw [step_of_request hq hp, runRequest_of_decode hfetch (decode_field_window _ _ f)]
  cases f with
  | x => rfl
  | y => rfl
  | speed => rfl
  | resolution => rfl

end Sys2Proof.Machine
end

section
/-! SUPPORT. The rows of the sequencer, one lemma per row (40_frame_sync.md R70), and what a fill and a match write (R71, R76). -/

namespace Sys2Proof.Machine

/-! ### The processing of a match (R76) -/

/-- DATA_REPORT moves the scan index behind the frame and writes the register file, and nothing else. -/
theorem exec_dataReport_eq (r0 r1 r2 : RawRecord) (s : State) :
    exec (.dataReport r0 r1 r2) s =
      .next { s with tgt := matchTgt ⟨r0, r1, r2⟩ s.i s.len s.tgt, i := s.i + 30, result := .nothing } := by
  rw [exec_dataReport, processMatch_eq]
  rfl

/-- A match leaves in slot `k` the decode of its record where the record fits (R101, R107). -/
theorem matchTgt_get_eq_ite (p : Payload) (i len : Nat) (r : RegFile) (k : Fin 3) :
    (matchTgt p i len r).get k = if i + 4 + 8 * k.val + 8 ≤ len then recDec (recordOf p k) else r.get k :=
  (matchTgt_get p i len r k).trans (if_congr decide_eq_true_iff rfl rfl)

/-- Settles O22, slot by slot. -/
theorem dataReportEffect : Obligations.DataReportEffect := fun r0 r1 r2 s =>
  ⟨_, exec_dataReport_eq r0 r1 r2 s, matchTgt_get_eq_ite _ _ _ _ 0, matchTgt_get_eq_ite _ _ _ _ 1,
    matchTgt_get_eq_ite _ _ _ _ 2⟩

/-! ### The fill (R71, R72) -/

/-- Settles O12: the row FILL puts `rx` at position 0 on, and a read tells the two parts of the buffer apart. -/
theorem fillWritesReceivedBytes : Obligations.FillWritesReceivedBytes := fun s hq hrx =>
  ⟨(fillBuf s).buf, seqStep_of_fill hq hrx, fillBuf_read s⟩

/-! ### The other rows of the sequencer (R70) -/

section Rows

variable {s : State}

/-- Row FILL without data. -/
theorem seqStep_of_fill_nil (hq : s.seq = .fill) (hrx : s.rx = []) : seqStep s = (s.setLen 0).setSeq .done := by
  simp [seqStep, hq, hrx]

/-- Row TEST at the end of the received bytes. -/
theorem seqStep_of_len_le (hq : s.seq = .test) (hi : s.len ≤ s.i) : seqStep s = s.setSeq .done := by
  simp [seqStep, hq, hi]

/-- Row TEST at a candidate with the signature. -/
theorem seqStep_of_sig (hq : s.seq = .test) (hi : s.i < s.len) (hs : sig s s.i = true) :
    seqStep s = s.setSeq .rec0 := by
  simp [seqStep, hq, hi, hs]

/-- Row TEST at any other candidate. -/
theorem seqStep_of_not_sig (hq : s.seq = .test) (hi : s.i < s.len) (hs : sig s s.i = false) :
    seqStep s = advance1 s := by
  simp [seqStep, hq, hi, hs]

theorem seqStep_of_rec0 (hq : s.seq = .rec0) : seqStep s = (writeRecord (payloadAt s s.i) 0 s).setSeq .rec1 := by
  simp only [seqStep, hq]

theorem seqStep_of_rec1 (hq : s.seq = .rec1) : seqStep s = (writeRecord (payloadAt s s.i) 1 s).setSeq .rec2 := by
  simp only [seqStep, hq]

theorem seqStep_of_rec2 (hq : s.seq = .rec2) : seqStep s = (writeRecord (payloadAt s s.i) 2 s).setSeq .adv := by
  simp only [seqStep, hq]

theorem seqStep_of_adv (hq : s.seq = .adv) : seqStep s = (advanceMatch s).setSeq .test := by
  simp only [seqStep, hq]

theorem seqStep_of_done (hq : s.seq = .done) : seqStep s = finish s := by
  simp only [seqStep, hq]

end Rows

/-- Record `k` behind a header lies `8k` bytes behind the first one (42_field_extract.md R100). -/
theorem recordOf_payloadAt (s : State) (i : Nat) (k : Fin 3) : recordOf (payloadAt s i) k = recordAt s (recOff i k) := by
  match k with
  | 0 => rfl
  | 1 => rfl
  | 2 => rfl

/-- What a record row writes: slot `k`, if the record fits (R76, 42_field_extract.md R107). -/
theorem writeRecord_payloadAt (k : Fin 3) (s : State) :
    writeRecord (payloadAt s s.i) k s =
      s.setTgt (if recOff s.i k + 8 ≤ s.len then s.tgt.set k (recDec (recordAt s (recOff s.i k))) else s.tgt) := by
  rw [writeRecord_eq, recordOf_payloadAt]
  exact congrArg s.setTgt (if_congr decide_eq_true_iff rfl rfl)

/-- Settles O41, row by row. -/
theorem sequencerRows : Obligations.SequencerRows := by
  refine ⟨fun s => rfl, fun s => seqStep_of_fill_nil, fun s => seqStep_of_fill, fun s => seqStep_of_len_le,
    fun s => seqStep_of_sig, fun s => seqStep_of_not_sig, fun s hq => ?_, fun s hq => ?_, fun s hq => ?_,
    fun s => seqStep_of_adv, fun s => seqStep_of_done⟩
  · rw [seqStep_of_rec0 hq, writeRecord_payloadAt]
    rfl
  · rw [seqStep_of_rec1 hq, writeRecord_payloadAt]
    rfl
  · rw [seqStep_of_rec2 hq, writeRecord_payloadAt]
    rfl

end Sys2Proof.Machine
end

section
/-! SUPPORT. The sequencer, row by row, does what a REFRESH does as one operation (40_frame_sync.md R70, R82). -/

namespace Sys2Proof.Machine

/-! ### Runs of the sequencer -/

/-- `n` rows lead from `s` to `t`, and the block is idle before none of them. -/
def RunsTo (n : Nat) (s t : State) : Prop := seqRun n s = t ∧ ∀ m < n, (seqRun m s).seq ≠ .idle

theorem RunsTo.refl (s : State) : RunsTo 0 s s := ⟨rfl, fun m hm => absurd hm (Nat.not_lt_zero m)⟩

/-- A row, and a run behind it. -/
theorem RunsTo.cons {n : Nat} {s u t : State} (hq : s.seq ≠ .idle) (hrow : seqStep s = u) (h : RunsTo n u t) :
    RunsTo (n + 1) s t := by
  subst hrow
  refine ⟨h.1, fun m hm => ?_⟩
  cases m with
  | zero => exact hq
  | succ m => exact h.2 m (Nat.lt_of_succ_lt_succ hm)

/-! ### One turn of the scan (R82) as rows -/

/-- A record row reads and writes the same whatever SEQ holds. -/
theorem writeRecord_setSeq_setSeq (k : Fin 3) (s : State) (q q' : Seq) :
    (writeRecord (payloadAt (s.setSeq q) (s.setSeq q).i) k (s.setSeq q)).setSeq q' =
      (writeRecord (payloadAt s s.i) k s).setSeq q' := by
  rw [writeRecord_eq, writeRecord_eq]
  rfl

@[simp] theorem writeRecord_i (p : Payload) (k : Fin 3) (s : State) : (writeRecord p k s).i = s.i := by
  rw [writeRecord_eq]
  rfl

/-- A record step writes no byte that a later record of the same match is read from. -/
theorem payloadAt_writeRecord (p : Payload) (k : Fin 3) (s : State) (i : Nat) :
    payloadAt (writeRecord p k s) i = payloadAt s i := by
  rw [writeRecord_eq]
  exact payloadAt_congr rfl rfl rfl rfl i

/-- The rows TEST, REC0, REC1, REC2 and ADV at a match are one turn of the scan. -/
theorem RunsTo.matchTurn {n : Nat} {s t : State} (hi : s.i < s.len) (hs : sig s s.i = true)
    (h : RunsTo n ((scanTurn s).setSeq .test) t) : RunsTo (n + 5) (s.setSeq .test) t := by
  rw [scanTurn_of_sig hs] at h
  refine .cons nofun (seqStep_of_sig rfl hi hs) <|
    .cons nofun ((seqStep_of_rec0 rfl).trans (writeRecord_setSeq_setSeq 0 s _ _)) <|
    .cons nofun ((seqStep_of_rec1 rfl).trans (writeRecord_setSeq_setSeq 1 _ _ _)) <|
    .cons nofun ((seqStep_of_rec2 rfl).trans (writeRecord_setSeq_setSeq 2 _ _ _)) <|
    .cons nofun (seqStep_of_adv rfl) ?_
  simp only [payloadAt_writeRecord, writeRecord_i]
  exact h

/-- A turn of the scan is at most five rows (R70). -/
theorem RunsTo.turn {n : Nat} {s t : State} (hi : s.i < s.len) (h : RunsTo n ((scanTurn s).setSeq .test) t) :
    ∃ m ≤ n + 5, RunsTo m (s.setSeq .test) t := by
  cases hs : sig s s.i with
  | true => exact ⟨n + 5, Nat.le_refl _, .matchTurn hi hs h⟩
  | false =>
    rw [scanTurn_of_not_sig hs] at h
    exact ⟨n + 1, by omega, .cons nofun (seqStep_of_not_sig rfl hi hs) h⟩

/-! ### The whole REFRESH -/

@[simp] theorem finish_setSeq (s : State) (q : Seq) : finish (s.setSeq q) = finish s := rfl

/-- The last row hands the result over (R70, row DONE). -/
theorem RunsTo.done (s : State) : RunsTo 1 (s.setSeq .done) (finish s) :=
  .cons nofun (seqStep_of_done rfl) (.refl _)

/-- The scan, with fuel for every byte that is left, and the end of the REFRESH. -/
theorem exists_runsTo_scanLoop (fuel : Nat) {s : State} (hfuel : s.len ≤ s.i + fuel) :
    ∃ n ≤ 5 * fuel + 2, RunsTo n (s.setSeq .test) (finish (scanLoop fuel s)) := by
  have hend {t : State} (hi : t.len ≤ t.i) : RunsTo 2 (t.setSeq .test) (finish t) :=
    .cons nofun (seqStep_of_len_le rfl hi) (.done t)
  induction fuel generalizing s with
  | zero => exact ⟨2, Nat.le_refl _, hend hfuel⟩
  | succ fuel ih =>
    unfold scanLoop
    split
    · next hi =>
      obtain ⟨r, j, hj, -, he⟩ := scanTurn_eq s
      have hlen : (scanTurn s).len ≤ (scanTurn s).i + fuel := by
        rw [he]
        show s.len ≤ j + fuel
        omega
      obtain ⟨n, hn, hrun⟩ := ih hlen
      obtain ⟨m, hm, hrun⟩ := hrun.turn hi
      exact ⟨m, by omega, hrun⟩
    · next hi => exact ⟨2, by omega, hend (Nat.le_of_not_lt hi)⟩

/-- Settles O43: the row FILL, the turns of the scan as rows, and the end; without data the end comes at once. -/
theorem sequencerRefinesRefresh : Obligations.SequencerRefinesRefresh := by
  intro s
  have hruns : ∃ n ≤ 5 * (nextRx s).length + 3, RunsTo n (accept s) (runRefresh s) := by
    unfold runRefresh
    dsimp only
    split
    · next hrx =>
      exact ⟨2, by omega, .cons nofun (seqStep_of_fill_nil rfl (List.length_eq_zero_iff.mp hrx)) (.done _)⟩
    · next hrx =>
      obtain ⟨n, hn, hrun⟩ := exists_runsTo_scanLoop (nextRx s).length (s := (fillBuf (accept s)).setI 0)
        (Nat.le_add_left _ 0)
      exact ⟨n + 1, by omega, .cons nofun (seqStep_of_fill rfl fun he => hrx (List.length_eq_zero_iff.mpr he)) hrun⟩
  obtain ⟨n, hn, hrun, hbusy⟩ := hruns
  obtain ⟨r, j, he⟩ := runRefresh_eq s
  exact ⟨n, hn, hrun, by rw [he], hbusy⟩

end Sys2Proof.Machine
end

section
/-! SUPPORT. The comparators, the signature test on the window (40_frame_sync.md R74, R75, R90), and one turn of the scan run by
the step. -/

namespace Sys2Proof.Machine

/-! ### The signature test -/

theorem hdrCmp_iff (s : State) (i : Nat) :
    hdrCmp s i = true ↔
      bufByte s i = 0xAA ∧ bufByte s (i + 1) = 0xFF ∧ bufByte s (i + 2) = 0x03 ∧ bufByte s (i + 3) = 0x00 := by
  simp only [hdrCmp, Bool.and_eq_true, beq_iff_eq, and_assoc]

theorem ftrCmp_iff (s : State) (i : Nat) :
    ftrCmp s i = true ↔ bufByte s (i + 28) = 0x55 ∧ bufByte s (i + 29) = 0xCC := by
  simp only [ftrCmp, Bool.and_eq_true, beq_iff_eq]

theorem sig_iff (s : State) (i : Nat) : sig s i = true ↔ hdrCmp s i = true ∧ ftrCmp s i = true :=
  Bool.and_eq_true_iff

/-- HDRCMP compares the first four bytes of the window with the header (R74). -/
theorem take_window_eq_header (s : State) (i : Nat) : (window s i 30).take 4 = Wire.header ↔ hdrCmp s i = true := by
  have htake : (window s i 30).take 4 = [bufByte s i, bufByte s (i + 1), bufByte s (i + 2), bufByte s (i + 3)] := rfl
  simp only [htake, hdrCmp_iff, Wire.header, List.cons.injEq, and_true]

/-- FTRCMP compares the last two bytes of the window with the footer (41_footer_validator.md R90). -/
theorem drop_window_eq_footer (s : State) (i : Nat) : (window s i 30).drop 28 = Wire.footer ↔ ftrCmp s i = true := by
  have hdrop : (window s i 30).drop 28 = [bufByte s (i + 28), bufByte s (i + 29)] := rfl
  simp only [hdrop, ftrCmp_iff, Wire.footer, List.cons.injEq, and_true]

/-- Settles O15: match and mask compare the two ends of the window with the magics, as the two comparators do. -/
theorem signatureTest : Obligations.SignatureTest := by
  intro s i
  refine ⟨hdrCmp_iff s i, ftrCmp_iff s i, sig_iff s i, ?_⟩
  rw [masked_eq_pattern (window_length s i 30), take_window_eq_header, drop_window_eq_footer, sig_iff]

/-! ### One turn of the scan at the step -/

theorem fetch_scan {s : State} (hi : s.i < s.len) : fetch s .scan = some (.wire .frame30 (window s s.i 30)) :=
  if_pos hi

theorem runRequest_scan_of_sig {s : State} (hi : s.i < s.len) (hs : sig s s.i = true) :
    runRequest .scan s =
      exec (.dataReport (payloadAt s s.i).rec0 (payloadAt s s.i).rec1 (payloadAt s s.i).rec2) s :=
  runRequest_of_decode (fetch_scan hi) ((decode_window s s.i).trans (if_pos hs))

theorem runRequest_scan_of_not_sig {s : State} (hi : s.i < s.len) (hs : sig s s.i = false) :
    runRequest .scan s = .next ((advance1 s).setResult .nothing) := by
  simp only [runRequest, fetch_scan hi, decode_window, hs, Bool.false_eq_true, if_false, rejected]

/-- Settles O6: the window at the scan index decodes exactly where the signature test holds, else it is passed over by one byte. -/
theorem stepRunsScanTurn : Obligations.StepRunsScanTurn := by
  intro s rest hq hp hi
  rw [step_of_request hq hp]
  exact ⟨runRequest_scan_of_sig (s := s.setPending rest) hi, runRequest_scan_of_not_sig (s := s.setPending rest) hi⟩

end Sys2Proof.Machine
end

section
/-! SUPPORT. Which offsets a scan matches (40_frame_sync.md R73, R75, R79), and how many there are in 80 bytes (R194). -/

namespace Sys2Proof.Machine

/-! ### Matches are the signatures the scan looks at -/

section Matches

variable {rx : List Byte} {tail : Nat → Byte}

/-- The scan matches offsets below LEN, where the signature test holds. -/
theorem sig_of_mem_matchesFrom {fuel i j : Nat} (hj : j ∈ matchesFrom rx tail fuel i) :
    j < rx.length ∧ inputSig rx tail j = true := by
  fun_induction matchesFrom rx tail fuel i with
  | case1 => cases hj
  | case2 fuel i hi h ih =>
    rcases List.mem_cons.mp hj with rfl | hj
    · exact ⟨hi, h⟩
    · exact ih hj
  | case3 fuel i hi h ih => exact ih hj
  | case4 => cases hj

/-- With fuel for every byte left, a signature from the scan index on is matched or lies in the window of a match. -/
theorem exists_match_of_sig {fuel i j : Nat} (hfuel : rx.length ≤ i + fuel) (hij : i ≤ j) (hj : j < rx.length)
    (hsig : inputSig rx tail j = true) : ∃ m ∈ matchesFrom rx tail fuel i, m ≤ j ∧ j < m + 30 := by
  fun_induction matchesFrom rx tail fuel i with
  | case1 i => omega
  | case2 fuel i hi h ih =>
    by_cases hw : j < i + 30
    · exact ⟨i, List.mem_cons_self, hij, hw⟩
    · obtain ⟨m, hm, hmj⟩ := ih (by omega) (by omega)
      exact ⟨m, List.mem_cons_of_mem i hm, hmj⟩
  | case3 fuel i hi h ih =>
    have hne : i ≠ j := fun he => h (he ▸ hsig)
    exact ih (by omega) (by omega)
  | case4 fuel i hi => omega

end Matches

/-- Settles O45: the scan goes on behind each matched window, and passes over no other signature. -/
theorem matchesAreDisjointAndComplete : Obligations.MatchesAreDisjointAndComplete := fun rx tail =>
  ⟨pairwise_matchesFrom rx tail rx.length 0, fun _ => sig_of_mem_matchesFrom,
    fun j => exists_match_of_sig (Nat.le_add_left _ 0) (Nat.zero_le j)⟩

/-! ### Matches in a buffer of 80 bytes -/

/-- Behind `n` windows that do not overlap the next one starts at `30 n` or later. -/
theorem mul_le_getElem_of_pairwise {l : List Nat} (h : l.Pairwise (fun i j => i + 30 ≤ j)) {n : Nat}
    (hn : n < l.length) : 30 * n ≤ l[n] := by
  induction n with
  | zero => exact Nat.zero_le _
  | succ n ih =>
    have hprev := ih (Nat.lt_of_succ_lt hn)
    have hstep := List.pairwise_iff_getElem.mp h n (n + 1) (Nat.lt_of_succ_lt hn) hn (Nat.lt_succ_self n)
    omega

/-- The number of records of a match at `i` that fit into `len` bytes (42_field_extract.md R101). -/
def recordCount (len i : Nat) : Nat :=
  (if i + 12 ≤ len then 1 else 0) + (if i + 20 ≤ len then 1 else 0) + (if i + 28 ≤ len then 1 else 0)

theorem recordCount_le_three (len i : Nat) : recordCount len i ≤ 3 := by
  unfold recordCount
  split_ifs <;> omega

/-- A match whose third record does not fit has at most two records. -/
theorem recordCount_le_two {len i : Nat} (h : len < i + 28) : recordCount len i ≤ 2 := by
  unfold recordCount
  rw [if_neg (Nat.not_le.mpr h)]
  split_ifs <;> omega

/-- Of three matches the third of which is truncated, at most eight records fit. -/
theorem sum_recordCount_le_eight {len : Nat} {l : List Nat} (hl : l.length ≤ 3)
    (hthird : ∀ i, l[2]? = some i → len < i + 28) : (l.map (recordCount len)).sum ≤ 8 := by
  have hle := recordCount_le_three len
  rcases Nat.lt_or_eq_of_le hl with hl | hl
  · have hsum : (l.map (recordCount len)).sum ≤ (l.map (recordCount len)).length • 3 :=
      List.sum_le_card_nsmul _ 3 (List.forall_mem_map.mpr fun i _ => hle i)
    rw [List.length_map, smul_eq_mul] at hsum
    omega
  · obtain ⟨a, b, c, rfl⟩ := List.length_eq_three.mp hl
    have ha := hle a
    have hb := hle b
    have hc := recordCount_le_two (hthird c rfl)
    simp only [List.map_cons, List.map_nil, List.sum_cons, List.sum_nil]
    omega

/-- Settles O46: the fourth window would start at 90, the third starts at 60 or later and so is cut off. -/
theorem matchesPerBuffer : Obligations.MatchesPerBuffer := by
  intro rx tail hlen
  have hat {n : Nat} (hn : n < (scanMatches rx tail).length) : 30 * n ≤ (scanMatches rx tail)[n] :=
    mul_le_getElem_of_pairwise (pairwise_matchesFrom rx tail rx.length 0) hn
  have hcount : (scanMatches rx tail).length ≤ 3 := by
    by_contra hc
    have hfourth := hat (Nat.lt_of_not_le hc)
    have hlt := (sig_of_mem_matchesFrom (List.getElem_mem (Nat.lt_of_not_le hc))).1
    omega
  have hthird : ∀ i, (scanMatches rx tail)[2]? = some i → 60 ≤ i := by
    intro i hi
    obtain ⟨hn, rfl⟩ := List.getElem?_eq_some_iff.mp hi
    exact hat hn
  refine ⟨hcount, fun i hi => ?_, sum_recordCount_le_eight hcount fun i hi => ?_⟩
  · have h60 := hthird i hi
    omega
  · have h60 := hthird i hi
    omega

end Sys2Proof.Machine
end

section
/-! SUPPORT. Two frames back to back (95_test_vectors.md S3), and what links two REFRESHes (40_frame_sync.md R81). -/

namespace Sys2Proof.Machine

/-! ### Two frames back to back -/

/-- The scan matches both frames and nothing else (20_memory.md R36, 40_frame_sync.md R78). -/
theorem scanMatches_frame_frame (p q : Payload) (tail : Nat → Byte) :
    scanMatches (encodeFrame p ++ encodeFrame q) tail = [0, 30] := by
  have hfirst : inputSig (encodeFrame p ++ encodeFrame q) tail 0 = true :=
    inputSig_of_frame tail (List.prefix_append _ _)
  have hsecond : inputSig (encodeFrame p ++ encodeFrame q) tail 30 = true :=
    (inputSig_append (encodeFrame p) _ tail 0).trans (inputSig_of_frame _ List.prefix_rfl)
  have hlen : (encodeFrame p ++ encodeFrame q).length = 60 := rfl
  rw [scanMatches, hlen, matchesFrom_of_sig 59 (by omega) hfirst, matchesFrom_of_sig 58 (by omega) hsecond,
    matchesFrom_of_length_le 58 (by omega)]

/-- Settles O50: the second match has all three records, so it overwrites every slot. -/
theorem backToBackFramesSecondWins : Obligations.BackToBackFramesSecondWins := by
  intro s p q hst hrx
  refine ⟨runRefresh s, exec_refresh_started hst, ?_, ?_⟩
  · rw [runRefresh_tgt_eq_foldl, hrx, scanMatches_frame_frame]
    exact storeMatch_of_frame _ (encodeFrame p) List.prefix_rfl _
  · rw [runRefresh_result, hrx]
    rfl

/-! ### What a REFRESH depends on -/

@[simp] theorem runRefresh_len (s : State) : (runRefresh s).len = (nextRx s).length := by
  obtain ⟨r, j, h⟩ := runRefresh_eq s
  rw [h]

theorem nextRx_congr {s t : State} (hcap : s.cap = t.cap) (hserial : s.serial = t.serial) : nextRx s = nextRx t := by
  simp only [nextRx, nextInput, hcap, hserial]

theorem nextTail_congr {s t : State} (hserial : s.serial = t.serial) (hdraws : s.draws = t.draws) :
    nextTail s = nextTail t := by
  funext j
  simp only [nextTail, nextInput, hserial, hdraws]

/-- Settles O48: a REFRESH is the scan function of the register file and its inputs. -/
theorem refreshIgnoresEarlierScans : Obligations.RefreshIgnoresEarlierScans := by
  intro s s' hst hst' hcap htgt hserial hdraws
  have hrx := nextRx_congr hcap hserial
  have htail := nextTail_congr hserial hdraws
  refine ⟨_, _, exec_refresh_started hst, exec_refresh_started hst', ?_, ?_, ?_⟩
  · rw [runRefresh_tgt_eq_scan, runRefresh_tgt_eq_scan, htgt, hrx, htail]
  · rw [runRefresh_result, runRefresh_result, hrx]
  · rw [runRefresh_len, runRefresh_len, hrx]

end Sys2Proof.Machine
end

section
/-! SUPPORT. Where the tail of a REFRESH can matter: at the header of a frame that the received bytes cut off behind its first record
(40_frame_sync.md R83). -/

namespace Sys2Proof.Machine

/-! ### Reads of received bytes alone -/

/-- A position below LEN reads as the received byte. -/
theorem getElem?_of_inputByte_eq {rx : List Byte} {tail : Nat → Byte} {i : Nat} {b : Byte} (hi : i < rx.length)
    (h : inputByte rx tail i = b) :
    rx[i]? = some b := by
  have hget := List.getElem?_eq_getElem hi
  rw [← h, inputByte_of_getElem? tail hget, hget]

section Tails

variable {rx : List Byte} (tail tail' : Nat → Byte) {i : Nat}

theorem inputByte_tail_congr (hi : i < rx.length) : inputByte rx tail i = inputByte rx tail' i :=
  (inputByte_of_getElem? tail' (getElem?_of_inputByte_eq hi rfl)).symm

theorem inputHalf_tail_congr (hi : i + 2 ≤ rx.length) : inputHalf rx tail i = inputHalf rx tail' i := by
  rw [inputHalf, inputHalf, inputByte_tail_congr tail tail' (i := i) (by omega), inputByte_tail_congr tail tail' hi]

/-- A record that fits is read from received bytes alone (42_field_extract.md R101). -/
theorem inputTarget_tail_congr (hi : i + 8 ≤ rx.length) : inputTarget rx tail i = inputTarget rx tail' i := by
  rw [inputTarget, inputTarget, inputHalf_tail_congr tail tail' (i := i) (by omega),
    inputHalf_tail_congr tail tail' (i := i + 2) (by omega), inputHalf_tail_congr tail tail' (i := i + 4) (by omega),
    inputHalf_tail_congr tail tail' (i := i + 6) (by omega)]

/-- So the records a match stores are the same for every tail (R107). -/
theorem storeMatch_tail_congr (r : RegFile) : storeMatch rx tail i r = storeMatch rx tail' i r := by
  refine RegFile.ext_get fun k => ?_
  rw [storeMatch_get, storeMatch_get]
  split
  · next hfit => exact inputTarget_tail_congr tail tail' hfit
  · rfl

/-- A match whose first record does not fit stores nothing (R108). -/
theorem storeMatch_of_length_lt (h : rx.length < i + 12) (r : RegFile) : storeMatch rx tail i r = r := by
  refine RegFile.ext_get fun k => ?_
  rw [storeMatch_get, if_neg (by omega)]

/-- From an offset on whose first record does not fit, the scan stores nothing. -/
theorem scanFrom_of_length_lt (fuel : Nat) (h : rx.length < i + 12) (r : RegFile) : scanFrom rx tail fuel i r = r := by
  fun_induction scanFrom rx tail fuel i r with
  | case1 => rfl
  | case2 fuel i r hi hs ih =>
    rw [ih (by omega)]
    exact storeMatch_of_length_lt tail h r
  | case3 fuel i r hi hs ih => exact ih (by omega)
  | case4 => rfl

end Tails

/-! ### The truncated header -/

/-- At offset `i` the received bytes hold a header and a whole first record and end before the frame does, with no footer byte or a right
first one (R83). -/
structure TruncatedHeader (rx : List Byte) (i : Nat) : Prop where
  header0 : rx[i]? = some 0xAA
  header1 : rx[i + 1]? = some 0xFF
  header2 : rx[i + 2]? = some 0x03
  header3 : rx[i + 3]? = some 0x00
  first_fits : i + 12 ≤ rx.length
  truncated : rx.length < i + 30
  footer : rx.length ≤ i + 28 ∨ rx[i + 28]? = some 0x55

theorem inputSig_iff (rx : List Byte) (tail : Nat → Byte) (i : Nat) :
    inputSig rx tail i = true ↔
      inputByte rx tail i = 0xAA ∧ inputByte rx tail (i + 1) = 0xFF ∧ inputByte rx tail (i + 2) = 0x03 ∧
        inputByte rx tail (i + 3) = 0x00 ∧ inputByte rx tail (i + 28) = 0x55 ∧ inputByte rx tail (i + 29) = 0xCC := by
  simp only [inputSig, Bool.and_eq_true, beq_iff_eq, and_assoc]

/-- A signature that reaches into the tail behind its first record is a truncated header. -/
theorem truncatedHeader_of_sig {rx : List Byte} {tail : Nat → Byte} {i : Nat} (hfit : i + 12 ≤ rx.length)
    (hcut : rx.length < i + 30) (hsig : inputSig rx tail i = true) : TruncatedHeader rx i := by
  obtain ⟨h0, h1, h2, h3, h28, -⟩ := (inputSig_iff rx tail i).mp hsig
  refine ⟨getElem?_of_inputByte_eq (by omega) h0, getElem?_of_inputByte_eq (by omega) h1,
    getElem?_of_inputByte_eq (by omega) h2, getElem?_of_inputByte_eq (by omega) h3, hfit, hcut, ?_⟩
  rcases Nat.lt_or_ge (i + 28) rx.length with hlt | hge
  · exact .inr (getElem?_of_inputByte_eq hlt h28)
  · exact .inl hge

/-- Outside a truncated header, a signature whose first record fits is one for every tail. -/
theorem inputSig_of_not_truncatedHeader {rx : List Byte} {tail tail' : Nat → Byte} {i : Nat}
    (hfit : i + 12 ≤ rx.length) (hno : ¬ TruncatedHeader rx i) (hsig : inputSig rx tail i = true) :
    inputSig rx tail' i = true := by
  have hwhole : i + 30 ≤ rx.length := by
    by_contra hcut
    exact hno (truncatedHeader_of_sig hfit (Nat.lt_of_not_le hcut) hsig)
  have hsame {n : Nat} (hn : n < 30) : inputByte rx tail' (i + n) = inputByte rx tail (i + n) :=
    inputByte_tail_congr tail' tail (by omega)
  rw [inputSig_iff] at hsig ⊢
  rwa [hsame (n := 1) (by omega), hsame (n := 2) (by omega), hsame (n := 3) (by omega), hsame (n := 28) (by omega),
    hsame (n := 29) (by omega), inputByte_tail_congr tail' tail (i := i) (by omega)]

/-- If every truncated header from the scan index on lies inside a matched window, the tail does not matter. -/
theorem scanFrom_tail_congr {rx : List Byte} {tail tail' : Nat → Byte} {fuel i : Nat} {r : RegFile}
    (hcovered : ∀ j, i ≤ j → TruncatedHeader rx j → ∃ m ∈ matchesFrom rx tail fuel i, m < j ∧ j < m + 30) :
    scanFrom rx tail fuel i r = scanFrom rx tail' fuel i r := by
  induction fuel generalizing i r with
  | zero => rfl
  | succ fuel ih =>
    rcases Nat.lt_or_ge rx.length (i + 12) with hshort | hfit
    · rw [scanFrom_of_length_lt tail _ hshort, scanFrom_of_length_lt tail' _ hshort]
    have hi : i < rx.length := by omega
    have hno : ¬ TruncatedHeader rx i := fun htr => by
      obtain ⟨m, hm, hlt, -⟩ := hcovered i (Nat.le_refl i) htr
      exact Nat.not_le.mpr hlt (le_of_mem_matchesFrom rx tail hm)
    cases hs : inputSig rx tail i with
    | true =>
      rw [scanFrom_of_sig fuel r hi hs, scanFrom_of_sig fuel r hi (inputSig_of_not_truncatedHeader hfit hno hs),
        storeMatch_tail_congr tail tail']
      refine ih fun j hj htr => ?_
      obtain ⟨m, hm, hmj⟩ := hcovered j (by omega) htr
      rw [matchesFrom_of_sig fuel hi hs] at hm
      rcases List.mem_cons.mp hm with rfl | hm
      · omega
      · exact ⟨m, hm, hmj⟩
    | false =>
      have hs' : inputSig rx tail' i = false := Bool.eq_false_of_not_eq_true fun h => by
        simp [inputSig_of_not_truncatedHeader (tail' := tail) hfit hno h] at hs
      rw [scanFrom_of_not_sig fuel r hi hs, scanFrom_of_not_sig fuel r hi hs']
      refine ih fun j hj htr => ?_
      rw [← matchesFrom_of_not_sig fuel hi hs]
      exact hcovered j (by omega) htr

/-- Settles O47: outside the excluded case every truncated header lies inside a matched window. -/
theorem tailMattersOnlyAtTruncatedHeader : Obligations.TailMattersOnlyAtTruncatedHeader := by
  intro s s' hst hst' htgt hrx hno
  refine ⟨_, _, exec_refresh_started hst, exec_refresh_started hst', ?_, ?_⟩
  · rw [runRefresh_tgt_eq_scan, runRefresh_tgt_eq_scan, ← htgt, ← hrx]
    refine scanFrom_tail_congr fun j _ htr => ?_
    by_contra hreached
    refine hno ⟨j, htr.header0, htr.header1, htr.header2, htr.header3, htr.first_fits, htr.truncated, ?_, htr.footer⟩
    exact fun m hm hmj => hreached ⟨m, hm, hmj⟩
  · rw [runRefresh_result, runRefresh_result, hrx]

end Sys2Proof.Machine
end

section
/-! SUPPORT. The footer validator on single frames: a frame whose end the tail supplies, and a frame with one magic byte changed
(41_footer_validator.md R91, R92, R93; 95_test_vectors.md S2, S4). -/

namespace Sys2Proof.Machine

/-! ### Inputs cut off -/

section Take

variable (rx : List Byte) (tail : Nat → Byte) {n : Nat}

/-- Below the cut the inputs read as those not cut off do. -/
theorem inputByte_take {j : Nat} (hj : j < n) : inputByte (rx.take n) tail j = inputByte rx tail j := by
  simp only [inputByte, List.getElem?_take_of_lt hj]

theorem inputTarget_take {o : Nat} (ho : o + 8 ≤ n) : inputTarget (rx.take n) tail o = inputTarget rx tail o := by
  have hbyte {j : Nat} (hj : j < 8) : inputByte (rx.take n) tail (o + j) = inputByte rx tail (o + j) :=
    inputByte_take rx tail (by omega)
  simp only [inputTarget, inputHalf, Nat.add_assoc, Nat.reduceAdd]
  rw [inputByte_take rx tail (j := o) (by omega), hbyte (j := 1) (by omega), hbyte (j := 2) (by omega),
    hbyte (j := 3) (by omega), hbyte (j := 4) (by omega), hbyte (j := 5) (by omega), hbyte (j := 6) (by omega),
    hbyte (j := 7) (by omega)]

end Take

/-! ### A frame cut off behind its header -/

section Truncated

variable (p : Payload) {tail : Nat → Byte} {n : Nat}

theorem length_take_frame (hcut : n ≤ 30) : ((encodeFrame p).take n).length = n := List.length_take_of_le hcut

/-- Where the tail supplies the footer, a frame cut off between header and footer has the signature (R92). -/
theorem inputSig_take_frame (hhdr : 4 ≤ n) (hcut : n ≤ 28) (h28 : tail 28 = 0x55) (h29 : tail 29 = 0xCC) :
    inputSig ((encodeFrame p).take n) tail 0 = true := by
  have hlen := length_take_frame p (n := n) (by omega)
  obtain ⟨h0, h1, h2, h3, -⟩ := (inputSig_iff _ tail 0).mp (inputSig_of_frame (p := p) tail List.prefix_rfl)
  have hbyte {j : Nat} (hj : j < 4) :
      inputByte ((encodeFrame p).take n) tail j = inputByte (encodeFrame p) tail j :=
    inputByte_take _ tail (Nat.lt_of_lt_of_le hj hhdr)
  refine (inputSig_iff _ tail 0).mpr ⟨(hbyte (by omega)).trans h0, (hbyte (by omega)).trans h1,
    (hbyte (by omega)).trans h2, (hbyte (by omega)).trans h3, ?_, ?_⟩
  · exact (inputByte_of_length_le tail (by omega)).trans h28
  · exact (inputByte_of_length_le tail (by omega)).trans h29

/-- It is then the only match: the scan goes on behind the frame's end, and so behind the received bytes (R78). -/
theorem scanMatches_take_frame (hhdr : 4 ≤ n) (hcut : n ≤ 28) (h28 : tail 28 = 0x55) (h29 : tail 29 = 0xCC) :
    scanMatches ((encodeFrame p).take n) tail = [0] := by
  have hlen := length_take_frame p (n := n) (by omega)
  obtain ⟨fuel, rfl⟩ := Nat.exists_eq_add_of_le' (Nat.one_le_of_lt hhdr)
  rw [scanMatches, hlen, matchesFrom_of_sig _ (by omega) (inputSig_take_frame p hhdr hcut h28 h29),
    matchesFrom_of_length_le _ (by omega)]

/-- A match at a frame cut off stores the records that lie before the cut and no other (42_field_extract.md R107). -/
theorem storeMatch_take_frame_get (tail : Nat → Byte) (hcut : n ≤ 30) (r : RegFile) (k : Fin 3) :
    (storeMatch ((encodeFrame p).take n) tail 0 r).get k =
      if 4 + 8 * k.val + 8 ≤ n then recDec (recordOf p k) else r.get k := by
  rw [storeMatch_get, length_take_frame p hcut, Nat.zero_add]
  split
  · next hfit => rw [inputTarget_take _ tail hfit, inputTarget_of_frame tail List.prefix_rfl]
  · rfl

end Truncated

/-- Settles O51: the match at offset 0 has its first two records before the cut, and its third one not. -/
theorem truncatedFrameKeepsSlotTwo : Obligations.TruncatedFrameKeepsSlotTwo := by
  intro s p n hst hlo hhi hrx h28 h29
  refine ⟨runRefresh s, exec_refresh_started hst, ?_, ?_⟩
  · rw [runRefresh_tgt_eq_foldl, hrx, scanMatches_take_frame p (by omega) (by omega) h28 h29]
    refine RegFile.ext_get fun k => (storeMatch_take_frame_get p _ (by omega) s.tgt k).trans ?_
    match k with
    | 0 => exact if_pos (by simp only [Fin.val_zero]; omega)
    | 1 => exact if_pos (by simp only [Fin.val_one]; omega)
    | 2 => exact if_neg (by simp only [Fin.val_two]; omega)
  · have hdata : 1 ≤ n := by omega
    rw [runRefresh_result, hrx, refreshResult, length_take_frame p (by omega), decide_eq_true hdata]

/-! ### A frame with one magic byte changed -/

/-- The signature is read off the six magic bytes, which are the same in every frame (30_encoding.md R51). -/
theorem getElem?_frame_of_sig {rx : List Byte} {tail : Nat → Byte} {n : Nat} (p : Payload)
    (hn : n ∈ [0, 1, 2, 3, 28, 29]) (hsig : inputSig rx tail 0 = true) : (encodeFrame p)[n]? = some (inputByte rx tail n) := by
  obtain ⟨h0, h1, h2, h3, h28, h29⟩ := (inputSig_iff rx tail 0).mp hsig
  simp only [List.mem_cons, List.not_mem_nil, or_false] at hn
  rcases hn with rfl | rfl | rfl | rfl | rfl | rfl
  · exact (congrArg some h0).symm
  · exact (congrArg some h1).symm
  · exact (congrArg some h2).symm
  · exact (congrArg some h3).symm
  · exact (congrArg some h28).symm
  · exact (congrArg some h29).symm

section Corrupted

variable {p : Payload} {n : Nat} {b : Byte} (hn : n ∈ [0, 1, 2, 3, 28, 29]) (hb : (encodeFrame p)[n]? ≠ some b)

include hn hb

/-- The signature test fails at a frame with one magic byte changed, whatever the tail (R91, R93). -/
theorem inputSig_set_frame (tail : Nat → Byte) : inputSig ((encodeFrame p).set n b) tail 0 = false := by
  have hlt : n < (encodeFrame p).length := by
    have hmax : ∀ m ∈ [0, 1, 2, 3, 28, 29], m < 30 := by decide
    exact hmax n hn
  have hbyte : inputByte ((encodeFrame p).set n b) tail n = b :=
    inputByte_of_getElem? tail (List.getElem?_set_self hlt)
  refine Bool.eq_false_of_not_eq_true fun hsig => hb ?_
  rw [getElem?_frame_of_sig p hn hsig, hbyte]

/-- It is no frame: every frame has the signature. -/
theorem decode_set_frame : decode (.wire .frame30 ((encodeFrame p).set n b)) = .error .notAFrame := by
  obtain ⟨q, hq⟩ := decodeFrame_of_length (w := (encodeFrame p).set n b) List.length_set
  refine hq.trans (if_neg fun hmagic => ?_)
  obtain ⟨p', -, hframe⟩ := decodeFrame_eq_ok.mp (hq.trans (if_pos hmagic))
  have hsig := inputSig_set_frame hn hb (fun _ => 0)
  rw [hframe, inputSig_of_frame _ List.prefix_rfl] at hsig
  cases hsig

end Corrupted

/-- Settles O52: the changed byte fails the signature test at offset 0, and no other offset has the byte `AA` it starts with. -/
theorem corruptedMagicIsRejected : Obligations.CorruptedMagicIsRejected := by
  intro s p n b hn hb hrx
  have hsig : inputSig (nextRx s) (nextTail s) 0 = false := hrx ▸ inputSig_set_frame hn hb (nextTail s)
  have hlen : (nextRx s).length = 30 := by rw [hrx, List.length_set, encodeFrame_length]
  refine ⟨hrx ▸ decode_set_frame hn hb, hsig, ?_, fun hst hno => ?_⟩
  · exact fun hmem => Bool.false_ne_true (hsig.symm.trans (sig_of_mem_matchesFrom hmem).2)
  · have hnomatch : ∀ i, i < (nextRx s).length → inputSig (nextRx s) (nextTail s) i = false := by
      intro i hi
      rcases Nat.eq_zero_or_pos i with rfl | hpos
      · exact hsig
      · have hget := List.getElem?_eq_getElem hi
        exact inputSig_of_ne _ hget fun he => hno i hpos (hget.trans (congrArg some he))
    obtain ⟨t, ht, htgt, hres⟩ := noMatchLeavesSlots s hst hnomatch
    rw [hlen] at hres
    exact ⟨t, ht, htgt, hres⟩

end Sys2Proof.Machine
end

section
/-! SUPPORT. The record and field extractor (42_field_extract.md): the sign-magnitude decode as a bit pattern and as a number (R103,
R106), the step that runs it on a record of the buffer (R102, R105), which slots a match writes (R108), and that a record that fits is
read from received bytes alone (R101). -/

namespace Sys2Proof.Machine

/-! ### The decodes as instructions (R103 to R105) -/

/-- With bit 15 set the decode takes that bit away. -/
theorem smdec_of_msb {r : U16} (h : r.msb = true) : smdec r = r &&& 0x7FFF := by
  have hge : 0x8000 ≤ r.toNat := by simpa [BitVec.msb_eq_decide] using h
  have hlt := r.isLt
  have hdec : smdec r = BitVec.ofNat 16 (r.toNat - 0x8000) := by
    rw [smdec, if_pos h, toS16, ← BitVec.ofInt_natCast, Int.ofNat_sub hge]
    rfl
  have hmask : r.toNat &&& 0x7FFF = r.toNat % 0x8000 := Nat.and_two_pow_sub_one_eq_mod r.toNat 15
  apply BitVec.eq_of_toNat_eq
  rw [hdec, BitVec.toNat_ofNat, BitVec.toNat_and, show (0x7FFF : U16).toNat = 0x7FFF from rfl, hmask]
  omega

/-- With bit 15 clear the decode negates. -/
theorem smdec_of_not_msb {r : U16} (h : r.msb = false) : smdec r = -r := by
  simp [smdec, h, toS16, BitVec.ofInt_neg]

/-- Settles O16: one case per value of bit 15. -/
theorem smFieldDecodes : Obligations.SmFieldDecodes := by
  intro r s
  refine ⟨smdec r, exec_smField r s, fun h => ⟨?_, smdec_of_msb h⟩, fun h => ⟨?_, smdec_of_not_msb h⟩⟩
  · rw [smdec_toInt, if_pos h]
  · rw [smdec_toInt, h]
    rfl

/-- Settles O18: the decode of an unsigned field is the identity. -/
theorem uFieldKeepsValue : Obligations.UFieldKeepsValue :=
  fun r s => ⟨exec_uField r s, rfl⟩

/-- Settles O19: the extractor hands back the decode of the record, field by field. -/
theorem recordDecodes : Obligations.RecordDecodes :=
  fun r s => exec_record r s

/-! ### The laws of the sign-magnitude decode (R106) -/

/-- The decode as a number, by the unsigned reading of the raw value. -/
theorem smdec_toInt_eq_ite (r : U16) :
    (smdec r).toInt = if 0x8000 ≤ r.toNat then (r.toNat : Int) - 0x8000 else -(r.toNat : Int) := by
  rw [smdec_toInt, BitVec.msb_eq_decide]
  exact if_congr decide_eq_true_iff rfl rfl

theorem eq_ofNat_iff_toNat_eq (r : U16) {n : Nat} (h : n < 2 ^ 16) : r = BitVec.ofNat 16 n ↔ r.toNat = n :=
  (BitVec.toNat_eq_nat.trans (and_iff_right h)).symm

/-- A positive value has one encoding: the magnitude with bit 15 set. -/
theorem smdec_toInt_eq_pos_iff (r : U16) {v : Nat} (hpos : 1 ≤ v) (hv : v ≤ 32767) :
    (smdec r).toInt = (v : Int) ↔ r = BitVec.ofNat 16 (0x8000 + v) := by
  rw [smdec_toInt_eq_ite, eq_ofNat_iff_toNat_eq r (by omega)]
  split <;> omega

/-- A negative value has one encoding: the magnitude with bit 15 clear. -/
theorem smdec_toInt_eq_neg_iff (r : U16) {v : Nat} (hpos : 1 ≤ v) (hv : v ≤ 32767) :
    (smdec r).toInt = -(v : Int) ↔ r = BitVec.ofNat 16 v := by
  rw [smdec_toInt_eq_ite, eq_ofNat_iff_toNat_eq r (by omega)]
  split <;> omega

/-- Zero has two encodings. -/
theorem smdec_toInt_eq_zero_iff (r : U16) : (smdec r).toInt = 0 ↔ r = BitVec.ofNat 16 0 ∨ r = BitVec.ofNat 16 0x8000 := by
  rw [smdec_toInt_eq_ite, eq_ofNat_iff_toNat_eq r (by decide), eq_ofNat_iff_toNat_eq r (by decide)]
  split <;> omega

theorem smdec_toInt_range (r : U16) : -32767 ≤ (smdec r).toInt ∧ (smdec r).toInt ≤ 32767 := by
  have hlt := r.isLt
  rw [smdec_toInt_eq_ite]
  split <;> omega

/-- The two encodings of a magnitude have opposite values. -/
theorem smdec_toInt_symm {m : Nat} (hm : m ≤ 32767) :
    (smdec (BitVec.ofNat 16 (0x8000 + m))).toInt = -(smdec (BitVec.ofNat 16 m)).toInt := by
  have hset : (BitVec.ofNat 16 (0x8000 + m)).toNat = 0x8000 + m := Nat.mod_eq_of_lt (by omega)
  have hclear : (BitVec.ofNat 16 m).toNat = m := Nat.mod_eq_of_lt (by omega)
  rw [smdec_toInt_eq_ite, smdec_toInt_eq_ite, hset, hclear, if_pos (by omega), if_neg (by omega)]
  omega

/-- Settles O17, law by law. -/
theorem signMagnitudeLaws : Obligations.SignMagnitudeLaws :=
  ⟨smdec_toInt_range, smdec_toInt_eq_zero_iff, fun _ r => smdec_toInt_eq_pos_iff r,
    fun _ r => smdec_toInt_eq_neg_iff r, fun _ => smdec_toInt_symm⟩

/-! ### The extractor at the step (R102, R105) -/

/-- Settles O20: the eight bytes of the record are fetched, and decode to the record whose four fields lie there. -/
theorem stepExtractsRecord : Obligations.StepExtractsRecord := by
  intro s k rest hq hp hfit
  have hfetch : fetch (s.setPending rest) (.record k) =
      some (.wire .rec8 (window (s.setPending rest) (recOff s.i k) 8)) := if_pos hfit
  rw [step_of_request hq hp, runRequest_of_decode hfetch (decode_record_window _ _), exec_record]
  rfl

/-! ### The slots one match writes (R107, R108) -/

/-- The register file after a match: the decode of each record that fits, the old value elsewhere. -/
theorem matchTgt_eq_mk (p : Payload) (i len : Nat) (r : RegFile) :
    matchTgt p i len r =
      ⟨if i + 12 ≤ len then recDec p.rec0 else r.slot0, if i + 20 ≤ len then recDec p.rec1 else r.slot1,
        if i + 28 ≤ len then recDec p.rec2 else r.slot2⟩ :=
  RegFile.ext_get fun k => (matchTgt_get_eq_ite p i len r k).trans <| match k with
    | 0 => rfl
    | 1 => rfl
    | 2 => rfl

/-- Settles O23: where a record fits, so do the records before it. -/
theorem fitIsMonotone : Obligations.FitIsMonotone := by
  intro r0 r1 r2 s
  refine ⟨_, exec_dataReport_eq r0 r1 r2 s, fun h28 => ?_, fun ⟨h20, h28⟩ => ?_, fun ⟨h12, h20⟩ => ?_, fun h12 => ?_,
    fun ⟨_, h30⟩ => bufByte_of_le (by omega)⟩
  · rw [matchTgt_eq_mk, if_pos (by omega), if_pos (by omega), if_pos h28]
  · rw [matchTgt_eq_mk, if_pos (by omega), if_pos h20, if_neg (by omega)]
  · rw [matchTgt_eq_mk, if_pos h12, if_neg (by omega), if_neg (by omega)]
  · rw [matchTgt_eq_mk, if_neg (by omega), if_neg (by omega), if_neg (by omega)]

/-! ### A record that fits and the tail (R101, R33) -/

/-- `B2(j)` after the row FILL: the inputs of the REFRESH, read at `j` and behind it. -/
theorem bufHalf_seqStep_of_fill {s : State} (hq : s.seq = .fill) (hrx : s.rx ≠ []) (j : Nat) :
    bufHalf (seqStep s) j = inputHalf s.rx (tailByte s) j := by
  rw [bufHalf, inputHalf, bufByte_seqStep_of_fill hq hrx, bufByte_seqStep_of_fill hq hrx]

/-- Settles O24: the four fields of a record that fits lie below LEN, where the tail is not read. -/
theorem tailNeverReachesSlot : Obligations.TailNeverReachesSlot := by
  intro s s' i k hq hq' hrx hne hfit
  have hfit : recOff i k + 8 ≤ s.rx.length := of_decide_eq_true hfit
  have hhalf {j : Nat} (hj : j + 2 ≤ s.rx.length) : bufHalf (seqStep s) j = bufHalf (seqStep s') j := by
    rw [bufHalf_seqStep_of_fill hq hne, bufHalf_seqStep_of_fill hq' (hrx ▸ hne), ← hrx]
    exact inputHalf_tail_congr _ _ hj
  simp only [recordAt, hhalf (j := recOff i k) (by omega), hhalf (j := recOff i k + 2) (by omega),
    hhalf (j := recOff i k + 4) (by omega), hhalf (j := recOff i k + 6) (by omega)]

end Sys2Proof.Machine
end

section
/-! SUPPORT. The register file (43_target_regfile.md): a record write and its frame (R120), and the accessors, whose answer is a
function of the index and the register file (R122 to R127). -/

namespace Sys2Proof.Machine

/-- Settles O25: the new register file is the old one with the slot set. -/
theorem recordWriteReplacesSlot : Obligations.RecordWriteReplacesSlot :=
  fun k v s => ⟨s.tgt.set k v, rfl, RegFile.get_set_same s.tgt k v, fun _ hj => RegFile.get_set_other s.tgt v hj⟩

/-! ### The answer of an accessor (R122 to R126) -/

/-- What the accessor that reads `value` from a slot answers for an index. It sees the register file and no other part of the state. -/
def slotAnswer (index : Int) (value : Target → Result) (r : RegFile) : Result :=
  if index = 0 then value r.slot0
  else if index = 1 then value r.slot1
  else if index = 2 then value r.slot2
  else .error (.rangeError index)

theorem slotAnswer_val (k : Fin 3) (value : Target → Result) (r : RegFile) :
    slotAnswer k.val value r = value (r.get k) :=
  match k with
  | 0 => rfl
  | 1 => rfl
  | 2 => rfl

theorem slotAnswer_of_outOfRange {index : Int} (h0 : index ≠ 0) (h1 : index ≠ 1) (h2 : index ≠ 2) (value : Target → Result)
    (r : RegFile) : slotAnswer index value r = .error (.rangeError index) := by
  rw [slotAnswer, if_neg h0, if_neg h1, if_neg h2]

/-- An accessor hands its answer back and changes nothing else. -/
theorem readSlot_eq_slotAnswer (index : Int) (value : Target → Result) (s : State) :
    readSlot index value s = .next (s.setResult (slotAnswer index value s.tgt)) := by
  rcases readSlot_eq index value s with ⟨k, rfl, h⟩ | ⟨⟨h0, h1, h2⟩, h⟩
  · rw [h, slotAnswer_val]
  · rw [h, slotAnswer_of_outOfRange h0 h1 h2, raiseRangeError]

/-- Settles O27: the accessor reads `x`. -/
theorem getXReadsSlot : Obligations.GetXReadsSlot :=
  fun index s => (exec_getX index s).trans (readSlot_eq_slotAnswer index _ s)

/-- Settles O28: the accessor reads `y`. -/
theorem getYReadsSlot : Obligations.GetYReadsSlot :=
  fun index s => (exec_getY index s).trans (readSlot_eq_slotAnswer index _ s)

/-- Settles O29: the accessor reads `speed`. -/
theorem getSpeedReadsSlot : Obligations.GetSpeedReadsSlot :=
  fun index s => (exec_getSpeed index s).trans (readSlot_eq_slotAnswer index _ s)

/-- Settles O30: the accessor reads `resolution`, and an unsigned result carries its unsigned number. -/
theorem getResReadsSlot : Obligations.GetResReadsSlot :=
  fun index s => ⟨(exec_getRes index s).trans (readSlot_eq_slotAnswer index _ s), fun _ => rfl⟩

/-! ### Purity (R127, R38) -/

/-- Each accessor is the shared read with a value function of its own. -/
theorem exists_exec_eq_readSlot {i : Instr} {index : Int}
    (hi : i = .getX index ∨ i = .getY index ∨ i = .getSpeed index ∨ i = .getRes index) :
    ∃ value : Target → Result, ∀ s, exec i s = readSlot index value s := by
  rcases hi with rfl | rfl | rfl | rfl
  · exact ⟨_, exec_getX index⟩
  · exact ⟨_, exec_getY index⟩
  · exact ⟨_, exec_getSpeed index⟩
  · exact ⟨_, exec_getRes index⟩

/-- Settles O35: the answer depends on the register file alone, which the accessor leaves as it was. -/
theorem accessorsArePure : Obligations.AccessorsArePure := by
  intro i index hi s s' htgt
  obtain ⟨value, hexec⟩ := exists_exec_eq_readSlot hi
  have answers (u : State) : exec i u = .next (u.setResult (slotAnswer index value u.tgt)) :=
    (hexec u).trans (readSlot_eq_slotAnswer index value u)
  exact ⟨slotAnswer index value s.tgt, answers s, by rw [htgt]; exact answers s', answers (s.setResult _)⟩

end Sys2Proof.Machine
end

section
/-! SUPPORT. The host operations at the block (44_host_operations.md): the step that takes their requests (R140, R148), BEGIN (R141), a
whole REFRESH and its frame (R142 to R144), and the one stop of an instruction (R145). -/

namespace Sys2Proof.Machine

/-! ### The step of an idle block (R140, R148) -/

/-- Settles O3: the request taken is decoded on the state without it, and the decoded instruction is executed there. -/
theorem stepRunsDecodedInstruction : Obligations.StepRunsDecodedInstruction := by
  intro s r rest raw i hq hp hfetch hdecode _
  rw [step_of_request hq hp, runRequest_of_decode hfetch hdecode]

/-- Settles O5: an idle block has no row of the sequencer to carry out and, without a request, nothing to run. -/
theorem idleBlockKeepsState : Obligations.IdleBlockKeepsState := by
  intro s hq hp
  simp only [step, hq, hp]

/-! ### BEGIN (R141) -/

/-- Settles O36: BEGIN is three updates of one field each. -/
theorem beginEffect : Obligations.BeginEffect := exec_begin

/-! ### REFRESH (R142 to R145) -/

/-- Settles O37: what a REFRESH can do to the state leaves open the register file, which is the scan function's, and the scan index, of
which nothing is said; the buffer reads as after its fill. -/
theorem refreshComputesScan : Obligations.RefreshComputesScan := by
  intro s hst
  obtain ⟨r, j, hrun⟩ := runRefresh_eq s
  have htgt : r = scan s.tgt (nextRx s) (nextTail s) :=
    (congrArg State.tgt hrun).symm.trans (runRefresh_tgt_eq_scan s)
  have hnext := (exec_refresh_started hst).trans (congrArg Host.Outcome.next hrun)
  exact ⟨_, hnext, htgt, rfl, rfl, rfl, rfl, rfl, rfl, rfl, rfl, rfl, rfl, rfl, fillBuf_read (accept s)⟩

/-- Settles O38: the REFRESH that computes the scan of no bytes, which has no turn, and whose fill writes no position. -/
theorem refreshWithoutData : Obligations.RefreshWithoutData := by
  intro s hst hrx
  obtain ⟨t, hnext, htgt, hresult, -, hstarted, hbitrate, hpending, -, -, -, hseq, -, -, hbuf⟩ := refreshComputesScan s hst
  rw [hrx] at htgt hresult
  refine ⟨t, hnext, hresult, htgt, hstarted, hbitrate, fun j => ?_, hseq, hpending⟩
  rw [hbuf, hrx]
  exact if_neg (Nat.not_lt_zero j)

/-- Settles O39: without STARTED the operation answers the refusal before it looks at its input. -/
theorem refreshBeforeBeginRefused : Obligations.RefreshBeforeBeginRefused := by
  intro s hst
  simp only [exec, execRefresh, hst, Bool.false_eq_true, if_false]

/-- Settles O55, instruction by instruction: an accessor completes with its answer, be it the error, and REFRESH asks for STARTED. -/
theorem onlyRefreshBeforeBeginStops : Obligations.OnlyRefreshBeforeBeginStops := by
  intro i s
  cases i with
  | dataReport r0 r1 r2 => exact .inl ⟨_, exec_dataReport r0 r1 r2 s⟩
  | record raw => exact .inl ⟨_, exec_record raw s⟩
  | smField raw => exact .inl ⟨_, exec_smField raw s⟩
  | uField raw => exact .inl ⟨_, exec_uField raw s⟩
  | begin bitrate => exact .inl ⟨_, exec_begin bitrate s⟩
  | refresh =>
    cases hst : s.started with
    | true => exact .inl ⟨_, exec_refresh_started hst⟩
    | false => exact .inr ⟨rfl, rfl, refreshBeforeBeginRefused s hst⟩
  | getX index => exact .inl ⟨_, getXReadsSlot index s⟩
  | getY index => exact .inl ⟨_, getYReadsSlot index s⟩
  | getSpeed index => exact .inl ⟨_, getSpeedReadsSlot index s⟩
  | getRes index => exact .inl ⟨_, (getResReadsSlot index s).left⟩

end Sys2Proof.Machine
end

section
/-! SUPPORT. The abnormal conditions EV0 to EV3 (60_exceptions.md R160, R162), and that no operation reads the result of the one
before it, so that a RangeError leaves no trace (R169). -/

namespace Sys2Proof.Machine

/-! ### The step with EV3 (R161, R168) -/

/-- Each of the four accessors raises RangeError for an index that names no slot. -/
theorem exec_eq_raiseRangeError {i : Instr} {index : Int}
    (hi : i = .getX index ∨ i = .getY index ∨ i = .getSpeed index ∨ i = .getRes index)
    (hindex : index ≠ 0 ∧ index ≠ 1 ∧ index ≠ 2) (s : State) : exec i s = raiseRangeError index s := by
  obtain ⟨value, hexec⟩ := exists_exec_eq_readSlot hi
  obtain ⟨h0, h1, h2⟩ := hindex
  rw [hexec, readSlot_eq_slotAnswer, slotAnswer_of_outOfRange h0 h1 h2, raiseRangeError]

/-- The selectors 2 to 5 name the four accessors, and the operand is the index (30_encoding.md R60). -/
theorem exists_accessor_of_selector {op : BitVec 3} (index : Int) (hlo : 2 ≤ op.toNat) (hhi : op.toNat ≤ 5) :
    ∃ i, decode (.host op index) = .ok i ∧
      (i = .getX index ∨ i = .getY index ∨ i = .getSpeed index ∨ i = .getRes index) := by
  match op with
  | 0 => exact absurd hlo (by decide)
  | 1 => exact absurd hlo (by decide)
  | 2 => exact ⟨_, rfl, .inl rfl⟩
  | 3 => exact ⟨_, rfl, .inr (.inl rfl)⟩
  | 4 => exact ⟨_, rfl, .inr (.inr (.inl rfl))⟩
  | 5 => exact ⟨_, rfl, .inr (.inr (.inr rfl))⟩
  | 6 => exact absurd hhi (by decide)
  | 7 => exact absurd hhi (by decide)

/-- The step of an accessor request whose index names no slot. -/
theorem step_of_outOfRange {s : State} {op : BitVec 3} {index : Int} {rest : List Request} (hq : s.seq = .idle)
    (hp : s.pending = .host op index :: rest) (hlo : 2 ≤ op.toNat) (hhi : op.toNat ≤ 5)
    (hindex : index ≠ 0 ∧ index ≠ 1 ∧ index ≠ 2) : step s = raiseRangeError index (s.setPending rest) := by
  obtain ⟨i, hdecode, hi⟩ := exists_accessor_of_selector index hlo hhi
  rw [step_of_request hq hp, runRequest_of_decode rfl hdecode, exec_eq_raiseRangeError hi hindex]

/-! ### No operation reads the last result -/

theorem window_congr {s t : State} (hb : s.buf = t.buf) (hl : s.len = t.len) (ht : s.tail = t.tail)
    (hd : s.draws = t.draws) (j n : Nat) : window s j n = window t j n := by
  induction n generalizing j with
  | zero => rfl
  | succ n ih => rw [window, window, ih, bufByte_congr hb hl ht hd]

theorem fetch_setResult (v : Result) (s : State) (r : Request) : fetch (s.setResult v) r = fetch s r := by
  have hwindow (j n : Nat) : window (s.setResult v) j n = window s j n :=
    window_congr (s := s.setResult v) (t := s) rfl rfl rfl rfl j n
  cases r with
  | host op arg => rfl
  | reset => rfl
  | scan => simp only [fetch, hwindow, State.setResult_i, State.setResult_len]
  | record k => simp only [fetch, hwindow, State.setResult_i, State.setResult_len]
  | field k f => simp only [fetch, hwindow, State.setResult_i, State.setResult_len]

theorem scanTurn_setResult (v : Result) (s : State) : scanTurn (s.setResult v) = (scanTurn s).setResult v := by
  rw [scanTurn, scanTurn, processMatch_eq, processMatch_eq, apply_ite (State.setResult v)]
  rfl

theorem scanLoop_setResult (n : Nat) (v : Result) (s : State) :
    scanLoop n (s.setResult v) = (scanLoop n s).setResult v := by
  induction n generalizing s with
  | zero => rfl
  | succ n ih =>
    rw [scanLoop, scanLoop, scanTurn_setResult, ih, apply_ite (State.setResult v)]
    rfl

/-- A REFRESH carries the last result along and overwrites it at its end. -/
theorem runRefresh_setResult (v : Result) (s : State) : runRefresh (s.setResult v) = runRefresh s := by
  have hfinish (n : Nat) (t : State) : finish (scanLoop n (t.setResult v)) = finish (scanLoop n t) := by
    rw [scanLoop_setResult]
    rfl
  exact if_congr Iff.rfl rfl (hfinish _ ((fillBuf (accept s)).setI 0))

/-- Every instruction overwrites the last result without having read it. -/
theorem exec_setResult (i : Instr) (v : Result) (s : State) : exec i (s.setResult v) = exec i s := by
  cases i with
  | dataReport r0 r1 r2 => exact (exec_dataReport_eq r0 r1 r2 _).trans (exec_dataReport_eq r0 r1 r2 s).symm
  | record raw => rfl
  | smField raw => rfl
  | uField raw => rfl
  | begin bitrate => rfl
  | refresh => rw [exec, exec, execRefresh, execRefresh, runRefresh_setResult, State.setResult_started]
  | getX index => exact (getXReadsSlot index _).trans (getXReadsSlot index s).symm
  | getY index => exact (getYReadsSlot index _).trans (getYReadsSlot index s).symm
  | getSpeed index => exact (getSpeedReadsSlot index _).trans (getSpeedReadsSlot index s).symm
  | getRes index => exact (getResReadsSlot index _).left.trans (getResReadsSlot index s).left.symm

theorem noItem_setResult (v : Result) (s : State) (r : Request) : noItem (s.setResult v) r = noItem s r := by
  cases r with
  | host op arg => rfl
  | reset => rfl
  | scan => rfl
  | record k => rfl
  | field k f => rfl

theorem rejected_setResult (e : DecodeError) (v : Result) (s : State) : rejected e (s.setResult v) = rejected e s := by
  cases e with
  | notAFrame => rfl
  | noOperation op => rfl
  | badLength fmt n => rfl

/-- Every request has the same outcome whatever the last operation handed back. -/
theorem runRequest_setResult (r : Request) (v : Result) (s : State) :
    runRequest r (s.setResult v) = runRequest r s := by
  simp only [runRequest, fetch_setResult, noItem_setResult, exec_setResult, rejected_setResult]

/-- The step that takes a request has the same outcome whatever the last operation handed back. -/
theorem step_setResult {s : State} {r : Request} {rest : List Request} (hq : s.seq = .idle) (hp : s.pending = r :: rest)
    (v : Result) : step (s.setResult v) = step s := by
  rw [step_of_request hq hp, step_of_request (s := s.setResult v) hq hp]
  exact runRequest_setResult r v (s.setPending rest)

/-- Settles O34: the failing step takes its request and writes the result, which the next request does not read. -/
theorem rangeErrorLeavesNoTrace : Obligations.RangeErrorLeavesNoTrace := by
  intro s op index r rest hq hp hlo hhi h0 h1 h2
  exact ⟨_, step_of_outOfRange hq hp hlo hhi ⟨h0, h1, h2⟩, rfl, hq, step_setResult (s := s.setPending (r :: rest)) hq rfl _⟩

end Sys2Proof.Machine

namespace Sys2Proof.Safety

open Sys2Proof.Machine

/-! ### The four conditions (R160) -/

theorem noDataAt_iff (s : State) : noDataAt s = true ↔ nextRx s = [] := by
  rw [noDataAt, beq_iff_eq, List.length_eq_zero_iff]

theorem unsynchronizedAt_iff (s : State) (i : Nat) : unsynchronizedAt s i = true ↔ i < s.len ∧ sig s i = false := by
  rw [unsynchronizedAt, Bool.and_eq_true, decide_eq_true_iff, Bool.not_eq_true']

theorem truncatedAt_iff (s : State) (i : Nat) (k : Fin 3) :
    truncatedAt s i k = true ↔ sig s i = true ∧ recFit i k s.len = false := by
  rw [truncatedAt, Bool.and_eq_true, Bool.not_eq_true']

theorem outOfRangeIndex_iff (index : Int) : outOfRangeIndex index = true ↔ index ≠ 0 ∧ index ≠ 1 ∧ index ≠ 2 := by
  rw [outOfRangeIndex, Option.isNone_iff_eq_none, slotOf_eq_none]

/-- A match leaves the slot of a record that does not fit as it was (42_field_extract.md R107). -/
theorem matchTgt_get_of_not_recFit {i len : Nat} {k : Fin 3} (h : recFit i k len = false) (p : Payload) (r : RegFile) :
    (matchTgt p i len r).get k = r.get k := by
  rw [matchTgt_get, h, if_neg Bool.false_ne_true]

/-- Settles O33, condition by condition: EV0 is a REFRESH without data, EV1 the row TEST without the signature, EV2 a match with a
record that does not fit, and EV3 the error of the accessors. -/
theorem abnormalConditions : Obligations.AbnormalConditions := by
  refine ⟨fun s hst hev0 => ?ev0, fun s hq hev1 => ?ev1, fun s k hev2 => ?ev2, fun s index =>
    ⟨outOfRangeIndex_iff index, fun hev3 => ?ev3⟩⟩
  case ev0 =>
    obtain ⟨t, hnext, hresult, htgt, -⟩ := refreshWithoutData s hst ((noDataAt_iff s).mp hev0)
    exact ⟨t, hnext, hresult, htgt, congrArg Result.errorCode hresult⟩
  case ev1 =>
    obtain ⟨hi, hsig⟩ := (unsynchronizedAt_iff s s.i).mp hev1
    exact seqStep_of_not_sig hq hi hsig
  case ev2 =>
    obtain ⟨-, hfit⟩ := (truncatedAt_iff s s.i k).mp hev2
    exact ⟨_, exec_dataReport_eq _ _ _ s, matchTgt_get_of_not_recFit hfit _ _, rfl, rfl⟩
  case ev3 =>
    have raises {i : Instr} (hi : i = .getX index ∨ i = .getY index ∨ i = .getSpeed index ∨ i = .getRes index) :
        exec i s = raiseRangeError index s := exec_eq_raiseRangeError hi ((outOfRangeIndex_iff index).mp hev3) s
    exact ⟨_, raises (.inl rfl), raises (.inr (.inl rfl)), raises (.inr (.inr (.inl rfl))),
      raises (.inr (.inr (.inr rfl))), rfl, rfl⟩

end Sys2Proof.Safety
end

section
/-! SUPPORT. The reset event (70_reset_and_hazards.md R180), and the host's side of the contract (section 3, R181, R189): a request
within the contract completes without error, and what the host presents afterwards is within the contract again. -/

namespace Sys2Proof.Machine

/-! ### The reset event (R180) -/

theorem runRequest_reset (s : State) : runRequest .reset s = .next s.applyReset := rfl

/-- Settles O2: the step takes the request and gives the block the values of reset, which keep what the environment presents. -/
theorem resetEventClearsBlock : Obligations.ResetEventClearsBlock := by
  intro s rest hq hp
  exact ⟨_, (step_of_request hq hp).trans (runRequest_reset _), rfl, rfl, rfl, rfl, rfl⟩

end Sys2Proof.Machine

namespace Sys2Proof.Safety

open Sys2Proof.Machine

/-! ### An operation within the contract -/

/-- The outcome of an operation at `s` that completes without error: the block is idle, the coming requests are those of `s`, and the
host keeps the contract with them. -/
def Completes (s : State) (o : Host.Outcome State Fault Refusal) : Prop :=
  ∃ t, o = .next t ∧ t.result.errorCode = 0 ∧ t.seq = .idle ∧ t.pending = s.pending ∧ hostOk t.started t.pending = true

section Completion

variable {s : State}

/-- An operation that hands back a value and changes nothing else. -/
theorem completes_setResult {v : Result} (hv : v.errorCode = 0) (hq : s.seq = .idle)
    (hok : hostOk s.started s.pending = true) : Completes s (.next (s.setResult v)) :=
  ⟨_, rfl, hv, hq, rfl, hok⟩

/-- An accessor with an index in 0..2 hands back a field of the slot it names (R189). -/
theorem completes_readSlot {index : Int} {value : Target → Result} (hvalue : ∀ v, (value v).errorCode = 0) (hq : s.seq = .idle)
    (hok : ((slotOf index).isSome && hostOk s.started s.pending) = true) : Completes s (readSlot index value s) := by
  obtain ⟨hindex, hrest⟩ := Bool.and_eq_true_iff.mp hok
  obtain ⟨k, hk⟩ := Option.isSome_iff_exists.mp hindex
  rw [(slotOf_eq_some index k).mp hk, readSlot_val]
  exact completes_setResult (hvalue _) hq hrest

/-- A REFRESH after a BEGIN completes with its boolean, and STARTED stays (R181). -/
theorem completes_refresh (hok : (s.started && hostOk s.started s.pending) = true) : Completes s (exec .refresh s) := by
  obtain ⟨hst, hrest⟩ := Bool.and_eq_true_iff.mp hok
  obtain ⟨r, j, hrun⟩ := runRefresh_eq s
  rw [exec_refresh_started hst, hrun]
  exact ⟨_, rfl, rfl, rfl, rfl, hrest⟩

/-- The host's duty towards each selector is what its operation needs. -/
theorem completes_host {op : BitVec 3} {arg : Int} (hq : s.seq = .idle)
    (hok : hostOk s.started (.host op arg :: s.pending) = true) : Completes s (runRequest (.host op arg) s) := by
  match op with
  | 0 => exact ⟨_, exec_begin arg s, rfl, hq, rfl, hok⟩
  | 1 => exact completes_refresh hok
  | 2 => exact completes_readSlot (value := fun t => .signed t.x) (fun _ => rfl) hq hok
  | 3 => exact completes_readSlot (value := fun t => .signed t.y) (fun _ => rfl) hq hok
  | 4 => exact completes_readSlot (value := fun t => .signed t.speed) (fun _ => rfl) hq hok
  | 5 => exact completes_readSlot (value := fun t => .unsigned t.resolution) (fun _ => rfl) hq hok
  | 6 => exact absurd hok Bool.false_ne_true
  | 7 => exact absurd hok Bool.false_ne_true

/-- Of the other requests, only the reset event bears on the contract: a BEGIN is due again. -/
theorem completes_request {r : Request} (hq : s.seq = .idle) (hok : hostOk s.started (r :: s.pending) = true) :
    Completes s (runRequest r s) := by
  rcases runRequest_cases r s with ⟨op, arg, -, rfl, -, -⟩ | ⟨op, arg, rfl, -, -⟩ | ⟨rfl, he⟩ | ⟨rfl, -, -, he⟩ |
    ⟨rfl, -, -, he⟩ | ⟨hr, v, hv, he⟩
  · exact completes_host hq hok
  · exact completes_host hq hok
  · exact ⟨_, he, rfl, rfl, rfl, hok⟩
  · rw [processMatch_eq] at he
    exact ⟨_, he, rfl, hq, rfl, hok⟩
  · exact ⟨_, he, rfl, hq, rfl, hok⟩
  · have hrest : hostOk s.started s.pending = true := by
      rcases hr with rfl | ⟨k, rfl⟩ | ⟨k, f, rfl⟩ <;> exact hok
    rw [he]
    exact completes_setResult hv hq hrest

end Completion

/-- Settles O59: the step runs the request with the rest of the requests still to come. -/
theorem contractAvoidsErrors : Obligations.ContractAvoidsErrors := by
  intro s r rest hq hp hok
  rw [step_of_request hq hp]
  rw [hp] at hok
  exact completes_request (s := s.setPending rest) hq hok

end Sys2Proof.Safety
end

section
/-! SUPPORT. Who raises RangeError (60_exceptions.md section 1): the accessors with an index that names no slot, and no other
operation. -/

namespace Sys2Proof.Machine

/-- Settles O31: each accessor raises the error, which carries the index. -/
theorem badIndexGivesRangeError : Obligations.BadIndexGivesRangeError := by
  intro index s h0 h1 h2
  have hindex : index ≠ 0 ∧ index ≠ 1 ∧ index ≠ 2 := ⟨h0, h1, h2⟩
  exact ⟨exec_eq_raiseRangeError (.inl rfl) hindex s, exec_eq_raiseRangeError (.inr (.inl rfl)) hindex s,
    exec_eq_raiseRangeError (.inr (.inr (.inl rfl))) hindex s,
    exec_eq_raiseRangeError (.inr (.inr (.inr rfl))) hindex s, rfl⟩

/-- An outcome has one next state, whose error code is 0 when it is known to be. -/
theorem errorCode_eq_zero_of_next {o : Host.Outcome State Fault Refusal} {u t : State} (hu : o = .next u) (h : o = .next t)
    (hzero : u.result.errorCode = 0) : t.result.errorCode = 0 := by
  obtain rfl := Host.Outcome.next.inj (hu.symm.trans h)
  exact hzero

/-- The next state of an accessor holds either the value read, which is no error, or the error of an index that names no slot. -/
theorem readSlot_next_cases {index : Int} {value : Target → Result} {s t : State} (h : readSlot index value s = .next t)
    (hvalue : ∀ v, (value v).errorCode = 0) :
    t.result.errorCode = 0 ∨
      (index ≠ 0 ∧ index ≠ 1 ∧ index ≠ 2) ∧ t = s.setResult (.error (.rangeError index)) := by
  rcases readSlot_eq index value s with ⟨k, -, hread⟩ | ⟨hindex, hraise⟩
  · exact .inl (errorCode_eq_zero_of_next hread h (hvalue _))
  · exact .inr ⟨hindex, Host.Outcome.next.inj (h.symm.trans hraise)⟩

/-- An operation that completes has error code 0, or it is an accessor that has raised RangeError and changed nothing else. -/
theorem exec_next_cases {i : Instr} {s t : State} (h : exec i s = .next t) :
    t.result.errorCode = 0 ∨ ∃ index : Int, (index ≠ 0 ∧ index ≠ 1 ∧ index ≠ 2) ∧
      (i = .getX index ∨ i = .getY index ∨ i = .getSpeed index ∨ i = .getRes index) ∧
      t = s.setResult (.error (.rangeError index)) := by
  cases i with
  | dataReport r0 r1 r2 => exact .inl (errorCode_eq_zero_of_next (exec_dataReport r0 r1 r2 s) h rfl)
  | record raw => exact .inl (errorCode_eq_zero_of_next (exec_record raw s) h rfl)
  | smField raw => exact .inl (errorCode_eq_zero_of_next (exec_smField raw s) h rfl)
  | uField raw => exact .inl (errorCode_eq_zero_of_next (exec_uField raw s) h rfl)
  | begin bitrate => exact .inl (errorCode_eq_zero_of_next (exec_begin bitrate s) h rfl)
  | refresh =>
    cases hst : s.started with
    | true =>
      exact .inl (errorCode_eq_zero_of_next (exec_refresh_started hst) h (congrArg Result.errorCode (runRefresh_result s)))
    | false => exact absurd ((refreshBeforeBeginRefused s hst).symm.trans h) nofun
  | getX index =>
    have hcases := readSlot_next_cases ((exec_getX index s).symm.trans h) fun _ => rfl
    exact hcases.imp_right fun ⟨hindex, ht⟩ => ⟨index, hindex, .inl rfl, ht⟩
  | getY index =>
    have hcases := readSlot_next_cases ((exec_getY index s).symm.trans h) fun _ => rfl
    exact hcases.imp_right fun ⟨hindex, ht⟩ => ⟨index, hindex, .inr (.inl rfl), ht⟩
  | getSpeed index =>
    have hcases := readSlot_next_cases ((exec_getSpeed index s).symm.trans h) fun _ => rfl
    exact hcases.imp_right fun ⟨hindex, ht⟩ => ⟨index, hindex, .inr (.inr (.inl rfl)), ht⟩
  | getRes index =>
    have hcases := readSlot_next_cases ((exec_getRes index s).symm.trans h) fun _ => rfl
    exact hcases.imp_right fun ⟨hindex, ht⟩ => ⟨index, hindex, .inr (.inr (.inr rfl)), ht⟩

/-- An accessor with an index that names no slot has error code 1. -/
theorem errorCode_eq_one_of_outOfRange {i : Instr} {index : Int} {s t : State}
    (hi : i = .getX index ∨ i = .getY index ∨ i = .getSpeed index ∨ i = .getRes index)
    (hindex : index ≠ 0 ∧ index ≠ 1 ∧ index ≠ 2) (h : exec i s = .next t) : t.result.errorCode = 1 := by
  obtain rfl := Host.Outcome.next.inj (h.symm.trans (exec_eq_raiseRangeError hi hindex s))
  rfl

/-- Settles O32: error code 1 excludes the normal completions, and an accessor with an index that names no slot does raise the error. -/
theorem onlyAccessorsRaiseRangeError : Obligations.OnlyAccessorsRaiseRangeError := by
  intro i s t h
  rcases exec_next_cases h with hzero | ⟨index, hindex, hi, ht⟩
  · have hne : t.result.errorCode ≠ 1 := hzero ▸ Nat.zero_ne_one
    exact ⟨.inr hzero, ⟨fun hone => absurd hone hne,
      fun ⟨_, hindex, hi⟩ => errorCode_eq_one_of_outOfRange hi hindex h⟩, fun hone => absurd hone hne⟩
  · have hone : t.result.errorCode = 1 := congrArg (fun u => u.result.errorCode) ht
    exact ⟨.inl hone, ⟨fun _ => ⟨index, hindex, hi⟩, fun _ => hone⟩, fun _ => ⟨index, hi, ht⟩⟩

end Sys2Proof.Machine
end
